-- ==== Sys2Proof/Word.lean ====
section
/-! DEFINITION. The word types of the codec (spec/00_scope.md R12, R13).

Every element of a byte sequence is one 8-bit bus word (R10 `BYTE_W`). Counts, lengths and offsets are
unbounded natural numbers (R11) and are plain `Nat`. -/

namespace Sys2Proof

/-- R13: "`Byte` is an unsigned 8-bit value 0 to 255". Bit 7 is the most significant (R12). -/
abbrev Byte := BitVec 8

/-- R13: "`HwAddr` is an unsigned 3-bit value 0 to 7". -/
abbrev HwAddr := BitVec 3

/-- R13: "`RegAddr` is a `Byte`". It addresses the far-end chip's register space, which the codec does not hold (R43). -/
abbrev RegAddr := Byte

end Sys2Proof
end

