-- ==== Sys2Proof/Config.lean ====
section
/-! DEFINITION. What is fixed for the machine: the parameters of spec/00_scope.md R10, the shape of a bus
configuration and of the handles (spec/10_state.md R25 to R30), and the one free choice of the model. -/

namespace Sys2Proof

/-- The bit order a bus handle may report (R27, decision D21): the two named orders or any other reported value. -/
inductive BitOrder where
  | msbFirst
  | lsbFirst
  | other (reported : Nat)
  deriving DecidableEq, Repr

/-- The five values CONSTRUCT reads from the bus handle (R25 to R29). `extraFlags` is a number read as a bit
set, 0 meaning "no extra flags" (R29, decision D8). -/
structure BusConfig where
  clockMode  : Nat
  maxClockHz : Nat
  bitOrder   : BitOrder
  wordSize   : Nat
  extraFlags : Nat
  deriving DecidableEq, Repr

/-- The opaque references received at construction (R30): the bus handle itself, the three GPIO lines and the
notification sink. A reference is a number that nothing interprets: no rule reads, drives or invokes one (R198,
R204, R205). -/
structure Handles where
  busHandle  : Nat
  resetLine  : Nat
  intaLine   : Nat
  intbLine   : Nat
  notifySink : Nat
  deriving DecidableEq, Repr

namespace Config

/-- R10, R21 `FIXED_BITS`: the device-family constant of control byte bits 7:4, hardwired to `0b0100`. -/
def fixedBits : BitVec 4 := 0b0100#4

/-- R10 `RW_READ`: the read/write bit of a READ. -/
def rwRead : BitVec 1 := 1#1

/-- R10 `RW_WRITE`: the read/write bit of a WRITE. -/
def rwWrite : BitVec 1 := 0#1

/-- R10 `HEADER_LEN`: the control byte and the register-address byte. -/
def headerLen : Nat := 2

/-- R10 `FILLER`: the transmitted payload byte of a READ (R145). -/
def filler : Byte := 0xFF#8

/-- R10 `CLOCK_MODES_OK`. -/
def clockModesOk : List Nat := [0, 3]

/-- R10 `MAX_CLOCK_HZ`, inclusive (R112). -/
def maxClockHz : Nat := 10000000

/-- R10 `BIT_ORDER_OK`. -/
def bitOrderOk : BitOrder := .msbFirst

/-- R10 `WORD_SIZE_OK`. -/
def wordSizeOk : Nat := 8

/-- FREE VALUE (log entry 4). Which violation an `OperandRange(index, field)` refusal names when several
operands of one TRANSACT are out of range: the spec fixes the reason and the two carried values (R154, R164) but
not which violation they name. The constant has no body, so nothing can be proved of the choice; the machine
applies it to the counter `State.draws`, and takes it only among the violations there are. -/
opaque freeChoice : Nat → Nat

end Config

end Sys2Proof
end

