-- ==== Sys2Proof/Syntax.lean ====
section
/-! DEFINITION. The instruction set (spec/00_scope.md R3, R14; spec/42_read_write_operations.md R142): exactly two
operation kinds, one constructor for each row of spec/opcode_table.json. CONSTRUCT and TRANSACT are host commands
without a wire encoding (spec/30_encoding.md R87); they are `Machine.Command`. -/

namespace Sys2Proof

/-- R14 `Op`: "a tagged variant with exactly two cases". The operands are typed, so every `Instr` is well formed
by construction (R154); the untyped boundary is `RawOp` in Sys2Proof/WellFormed.lean. -/
inductive Instr where
  /-- R140 READ: "read `byte_count` consecutive bytes starting at `register_address`". -/
  | read (registerAddress : RegAddr) (byteCount : Nat)
  /-- R141 WRITE: "write the literal `data_bytes` sequence starting at `register_address`". -/
  | write (registerAddress : RegAddr) (dataBytes : List Byte)
  deriving DecidableEq, Repr

namespace Instr

/-- R14 `payload_length`. -/
def payloadLength : Instr → Nat
  | .read _ n => n
  | .write _ d => d.length

/-- The operand that is placed in frame byte 1 (R85). -/
def registerAddress : Instr → RegAddr
  | .read r _ => r
  | .write r _ => r

/-- R81 `read_or_write`: bit 0 of the control byte. -/
def rw : Instr → BitVec 1
  | .read _ _ => Config.rwRead
  | .write _ _ => Config.rwWrite

/-- R143: the length of the operation's frame and of its response slice (R82). -/
def frameLength (i : Instr) : Nat := Config.headerLen + i.payloadLength

end Instr

end Sys2Proof
end

