-- ==== Sys2Proof/WellFormed.lean ====
section
/-! DEFINITION. Well-formed operations (spec/42_read_write_operations.md R154) and the untyped boundary on which
the check can fail (spec/30_encoding.md R91, spec/40_config_validator.md R120; decisions D3, D4).

A typed `Instr` is well formed by construction. What a host submits is untyped: numbers of any sign and size, or
values that are no integer at all. -/

namespace Sys2Proof

/-- A value at the untyped boundary: an integer of any size and sign, or something that is not an integer (R91). -/
inductive RawNum where
  | int (z : Int)
  | notInteger
  deriving DecidableEq, Repr

/-- An operation as the host writes it at the untyped boundary (R91). -/
inductive RawOp where
  | read (registerAddress : RawNum) (byteCount : RawNum)
  | write (registerAddress : RawNum) (dataBytes : List RawNum)
  deriving DecidableEq, Repr

/-- The field an `OperandRange(index, field)` refusal names (R154). -/
inductive OperandField where
  | registerAddress
  | byteCount
  | dataBytes
  deriving DecidableEq, Repr

namespace RawNum

/-- The value is an integer in `0 .. bound`. -/
def upTo (bound : Int) : RawNum → Bool
  | .int z => decide (0 ≤ z ∧ z ≤ bound)
  | .notInteger => false

/-- R154: `0 <= register_address <= 255`, and the same range for a data byte. -/
def isByte (x : RawNum) : Bool := x.upTo 255

/-- R120: `hardware_address` must be in 0 to 7. -/
def isHwAddr (x : RawNum) : Bool := x.upTo 7

/-- R154: `byte_count` is a natural number; there is no upper bound (R11). -/
def isNat : RawNum → Bool
  | .int z => decide (0 ≤ z)
  | .notInteger => false

end RawNum

/-- R154: the operation is well formed. -/
def RawOp.wellFormed : RawOp → Bool
  | .read r n => r.isByte && n.isNat
  | .write r d => r.isByte && d.all RawNum.isByte

/-- The typed operation written at the untyped boundary. -/
def RawOp.ofInstr : Instr → RawOp
  | .read r n => .read (.int r.toNat) (.int n)
  | .write r d => .write (.int r.toNat) (d.map fun b => .int b.toNat)

/-- R154 "In the typed interface every `Op` is well formed by construction": the check, applied to a typed
operation. `Laws.wellFormed_instr` shows that it always answers true. -/
def Instr.wellFormed (i : Instr) : Bool := (RawOp.ofInstr i).wellFormed

end Sys2Proof
end

