-- ==== Sys2Proof/Machine/Channels.lean ====
section
/-! DEFINITION. The values that cross the codec's message-level interfaces (spec/92_eei_decisions.md D1): the
command channel from the host and its answers, the diagnostic channel, and the bus channel
(spec/00_scope.md R14, R19; spec/60_exceptions.md R190 to R196). -/

namespace Sys2Proof.Machine

/-- R22: the lifecycle state of an instance. -/
inductive Life where
  | unconstructed
  | usable
  | rejected
  deriving DecidableEq, Repr

/-- R38: the progress of the transaction in flight. -/
inductive Phase where
  | idle
  | encode
  | transfer
  | decode
  deriving DecidableEq, Repr

/-- R35, R54: where a frame lies in `OUT`, and its response slice in `IN`. -/
structure Window where
  offset : Nat
  length : Nat
  deriving DecidableEq, Repr

/-- R14 `Result`. `absent` is a value of its own, distinct from `bytes []` (R148, decision D17). -/
inductive Result where
  | bytes (b : List Byte)
  | absent
  deriving DecidableEq, Repr

/-- R191: the four causes of a configuration error, each with the offending value read (decision D9). -/
inductive ConfigurationError where
  | clockMode (read : Nat)
  | maxClockRate (read : Nat)
  | bitOrder (read : BitOrder)
  | wordSize (read : Nat)
  deriving DecidableEq, Repr

/-- R192: the one cause of a configuration warning, with the flags value. -/
inductive ConfigurationWarning where
  | extraFlags (flags : Nat)
  deriving DecidableEq, Repr

/-- The primitive's own error: opaque, "propagated unchanged" and never interpreted (R168, U5). -/
abbrev PrimitiveError := Nat

/-- R193: the two causes of a transport error. It records no address, no operation index and no byte (R194). -/
inductive TransportError where
  | primitiveFailure (e : PrimitiveError)
  | lengthMismatch (expected actual : Nat)
  deriving DecidableEq, Repr

/-- The errors that end a command (R190); a warning is not one of them. -/
inductive ErrorValue where
  | configuration (e : ConfigurationError)
  | transport (e : TransportError)
  deriving DecidableEq, Repr

/-- R196: why a command is not accepted at the boundary. -/
inductive RefuseReason where
  | alreadyConstructed
  | hardwareAddressRange
  | notUsable
  | busy
  | operandRange (index : Nat) (field : OperandField)
  | transactionTooLong (length : Nat)
  deriving DecidableEq, Repr

/-- The two host commands (R3), with untyped operands (R91). CONSTRUCT carries what the bus handle reports when
the codec reads it, once (R110, R119). -/
inductive Command where
  | construct (hardwareAddress : RawNum) (bus : BusConfig) (handles : Handles)
  | transact (ops : List RawOp)
  deriving DecidableEq, Repr

/-- What the host channel brings at a step (log entry 2). `call` is a command of a host that serialises its calls
as R234 demands: it is issued once the codec is idle. `overlap` is a command that arrives at this very step,
whatever the phase: another thread, the duty of R234 broken. `quiet` is a step at which nothing arrives. -/
inductive HostEvent where
  | call (c : Command)
  | overlap (c : Command)
  | quiet
  deriving DecidableEq, Repr

/-- R166, R19: what the bus transfer primitive answers to one transfer request. Any sequence of any length, or a
failure, is an admissible answer (decision D22). -/
inductive BusAnswer where
  | sequence (inbound : List Byte)
  | failure (e : PrimitiveError)
  deriving DecidableEq, Repr

/-- What the host gets as the answer of a command. -/
inductive Reply where
  /-- CONSTRUCT succeeded (R118). -/
  | constructed
  /-- R181: the ordered per-operation results. -/
  | results (rs : List Result)
  /-- R200, R201: an error value in place of the answer. -/
  | error (e : ErrorValue)
  /-- R196: the command was not accepted. -/
  | refused (reason : RefuseReason)
  deriving DecidableEq, Repr

end Sys2Proof.Machine
end

