-- ==== Sys2Proof/Machine/Operands.lean ====
section
/-! DEFINITION. Operand forms: reading the values of the untyped boundary into typed ones, and naming the operand
that is out of range (spec/30_encoding.md R91, spec/42_read_write_operations.md R154, spec/40_config_validator.md
R120). "Values are never masked, truncated or wrapped into range" (R91): every reader answers none outside its
range. -/

namespace Sys2Proof.Machine

/-- A register address or a data byte: 0 to 255 (R154). -/
def byte? (x : RawNum) : Option Byte :=
  match x with
  | .int z => if 0 ≤ z ∧ z ≤ 255 then some (BitVec.ofNat 8 z.toNat) else none
  | .notInteger => none

/-- A byte count: any natural number (R154, R11). -/
def count? (x : RawNum) : Option Nat :=
  match x with
  | .int z => if 0 ≤ z then some z.toNat else none
  | .notInteger => none

/-- A hardware address: 0 to 7, "never reduced modulo 8" (R120). -/
def hwAddr? (x : RawNum) : Option HwAddr :=
  match x with
  | .int z => if 0 ≤ z ∧ z ≤ 7 then some (BitVec.ofNat 3 z.toNat) else none
  | .notInteger => none

/-- A data sequence, every element of which is in 0 to 255 (R154). -/
def bytes? : List RawNum → Option (List Byte)
  | [] => some []
  | x :: xs =>
    match byte? x, bytes? xs with
    | some b, some bs => some (b :: bs)
    | _, _ => none

/-- The typed operation, when the untyped one is well formed (R154). -/
def instr? : RawOp → Option Instr
  | .read r n =>
    match byte? r, count? n with
    | some r', some n' => some (.read r' n')
    | _, _ => none
  | .write r d =>
    match byte? r, bytes? d with
    | some r', some d' => some (.write r' d')
    | _, _ => none

/-- The fields of one operation that are out of range, in the order in which the operation lists them. -/
def badFields : RawOp → List OperandField
  | .read r n =>
    (if (byte? r).isSome then [] else [.registerAddress]) ++ (if (count? n).isSome then [] else [.byteCount])
  | .write r d =>
    (if (byte? r).isSome then [] else [.registerAddress]) ++ (if (bytes? d).isSome then [] else [.dataBytes])

/-- Every `(index, field)` that an `OperandRange` refusal of this operation list may name (R154). -/
def violationsFrom (index : Nat) : List RawOp → List (Nat × OperandField)
  | [] => []
  | op :: rest => ((badFields op).map fun f => (index, f)) ++ violationsFrom (index + 1) rest

/-- The violation that the refusal names. A single one is named as it stands; among several the spec gives no
choice, and the model's is free (log entry 4). -/
def namedViolation (draw : Nat) (v : Nat × OperandField) : List (Nat × OperandField) → Nat × OperandField
  | [] => v
  | w :: ws => ((v :: w :: ws)[Config.freeChoice draw % (v :: w :: ws).length]?).getD v

end Sys2Proof.Machine
end

