-- ==== Sys2Proof/Decode.lean ====
section
/-! DEFINITION. Frames: the decoder, total on any bytes, and after it the encoder (spec/30_encoding.md R80 to R93,
spec/41_control_byte.md R130, spec/42_read_write_operations.md R140, R141).

The codec itself only encodes (R88: the wire carries no length, so a batched stream cannot be split from its own
bytes). The decoder below reads ONE frame whose bytes are given as a whole, as the tooling of R80 and R89 does once
it knows the frame's length from the operation list. -/

namespace Sys2Proof

/-- Why a byte sequence is no frame. -/
inductive DecodeError where
  /-- Fewer than the two header bytes (R80: a frame has `2 + P` bytes). -/
  | tooShort
  /-- The control byte is outside `0x40 .. 0x4F` (R90: never produced). -/
  | notThisFamily (control : Byte)
  /-- A payload byte of a READ is not `0xFF`, under the rule for the codec's own output (R92). -/
  | fillerNotFF
  deriving DecidableEq, Repr

/-- R92: whose frames are judged. The codec's own READ frames carry `0xFF`; someone judging a foreign trace may
accept any filler "as protocol-correct but not as output of this codec". -/
inductive FillerRule where
  | codecOutput
  | foreignTrace
  deriving DecidableEq, Repr

/-- What a frame says: the hardware address in its control byte and the operation. -/
structure Frame where
  addr  : HwAddr
  instr : Instr
  deriving DecidableEq, Repr

/-- The two operation kinds, as the opcode (R87: bit 0 of the control byte). -/
inductive OpKind where
  | read
  | write
  deriving DecidableEq, Repr

/-- One row of spec/opcode_table.json: match and mask of the control byte (R81). -/
structure OpcodeRow where
  kind : OpKind
  pattern : Byte
  mask : Byte
  deriving DecidableEq, Repr

/-- R81: "READ is match `0x41` under mask `0xF1`; WRITE is match `0x40` under mask `0xF1`". -/
def opcodeTable : List OpcodeRow :=
  [⟨.read, 0x41#8, 0xF1#8⟩, ⟨.write, 0x40#8, 0xF1#8⟩]

/-- The control byte belongs to the row. -/
def OpcodeRow.covers (row : OpcodeRow) (control : Byte) : Bool := control &&& row.mask == row.pattern

/-- The operation kind of a control byte; `none` outside `0x40 .. 0x4F` (R87, R90). -/
def kindOf (control : Byte) : Option OpKind :=
  (opcodeTable.find? fun row => row.covers control).map OpcodeRow.kind

/-- R81: bits 3:1 of the control byte. -/
def addrOf (control : Byte) : HwAddr := control.extractLsb' 1 3

/-- The decoder: total on any byte sequence, rejecting by name. -/
def decodeFrame (rule : FillerRule) : List Byte → Except DecodeError Frame
  | [] => .error .tooShort
  | [_] => .error .tooShort
  | control :: reg :: payload =>
    match kindOf control with
    | none => .error (.notThisFamily control)
    | some .write => .ok ⟨addrOf control, .write reg payload⟩
    | some .read =>
      match rule with
      | .foreignTrace => .ok ⟨addrOf control, .read reg payload.length⟩
      | .codecOutput =>
        if payload.all (· == Config.filler) then .ok ⟨addrOf control, .read reg payload.length⟩
        else .error .fillerNotFF

/-! ### The encoder -/

/-- R130 `ctrl`: `(FIXED_BITS << 4) | (hardware_address << 1) | read_or_write_bit`, an 8-bit value. -/
def ctrl (a : HwAddr) (rw : BitVec 1) : Byte :=
  (Config.fixedBits.setWidth 8 <<< 4) ||| (a.setWidth 8 <<< 1) ||| rw.setWidth 8

/-- R140 framing: `[control_byte, register_address, 0xFF × N]`. -/
def readFrame (a : HwAddr) (r : RegAddr) (n : Nat) : List Byte :=
  [ctrl a Config.rwRead, r] ++ List.replicate n Config.filler

/-- R141 framing: `[control_byte, register_address, data_bytes...]`. -/
def writeFrame (a : HwAddr) (r : RegAddr) (d : List Byte) : List Byte :=
  [ctrl a Config.rwWrite, r] ++ d

/-- `tx(a, op)` of spec/42_read_write_operations.md: the frame of the operation on an instance whose
`hardware_address` is `a`. -/
def encode (a : HwAddr) : Instr → List Byte
  | .read r n => readFrame a r n
  | .write r d => writeFrame a r d

/-! ### The opcode table's words -/

/-- The `count` lowest bytes of `w`, the least significant first. -/
def leBytes : Nat → Nat → List Byte
  | 0, _ => []
  | count + 1, w => BitVec.ofNat 8 w :: leBytes count (w / 256)

/-- The frame whose bits are `w`, numbered as spec/opcode_table.json numbers them, with every bit above `nbits` 0.
A row gives the control byte its bits and the operand bytes none, so the shortest frame is filled up with a zero
register-address byte (log entry 9). -/
def tableBytes (nbits w : Nat) : List Byte :=
  leBytes (max Config.headerLen (nbits / 8)) (w % 2 ^ nbits)

/-- The frame that the decoder reads from a table word. -/
def decodeTableFrame (nbits w : Nat) : Option Frame :=
  match decodeFrame .codecOutput (tableBytes nbits w) with
  | .ok f => some f
  | .error _ => none

/-- The instruction that the decoder reads from a table word (none where it refuses). -/
def decodeTableWord (nbits w : Nat) : Option Instr := (decodeTableFrame nbits w).map Frame.instr

end Sys2Proof
end

