-- ==== Sys2Proof/Machine/State.lean ====
section
/-! DEFINITION. The state of one codec instance (spec/10_state.md R20 to R45), the reasons a step may stop, and the
state after reset. -/

namespace Sys2Proof.Machine

/-- R23: the configuration captured by CONSTRUCT. -/
structure Cfg where
  hardwareAddress : HwAddr
  bus             : BusConfig
  handles         : Handles
  deriving DecidableEq, Repr

/-- The state. `FIXED_BITS` (R21) is a hardwired constant and no field: `Config.fixedBits`. The fields `life` to
`res` are the complete storage of the codec (R20). `maxTxnBytes` is the open parameter of R11, fixed for an
instance: no step writes it. `draws` is the model's own counter behind its one free value (log entry 4). The last
five fields are the message-level channels of decision D1: what has yet to arrive, and what has been sent. -/
structure State where
  /-- R22 `LIFE`. -/
  life : Life
  /-- R23 to R30 `CFG`. -/
  cfg : Cfg
  /-- R38 `PHASE`. -/
  phase : Phase
  /-- R33 `OPS`: the transaction being executed. -/
  ops : List Instr
  /-- R31 `K`: the operation cursor, the block's "program counter". -/
  k : Nat
  /-- R32 `OFF`: the byte-offset cursor. -/
  off : Nat
  /-- R34 `OUT`: the combined outbound sequence. -/
  out : List Byte
  /-- R35 `WIN`: the window table. -/
  win : List Window
  /-- R36 `IN`: the inbound sequence. -/
  inb : List Byte
  /-- R37 `RES`: the result list under construction. -/
  res : List Result
  /-- R11, R163 `MAX_TXN_BYTES`; `none` is the spec's default, no bound. -/
  maxTxnBytes : Option Nat
  /-- MODEL'S OWN: how many free choices have been drawn. -/
  draws : Nat
  /-- Host channel, inward: the commands still to come (log entry 2). -/
  host : List HostEvent
  /-- Bus channel, inward: the answers the primitive gives to the transfers to come, in order (log entry 3). -/
  bus : List BusAnswer
  /-- Bus channel, outward: the transfer requests made so far, oldest first. -/
  requests : List (List Byte)
  /-- Host channel, outward: the answers given so far, oldest first. -/
  replies : List Reply
  /-- Diagnostic channel (R116): the warnings emitted so far, oldest first. -/
  diag : List ConfigurationWarning
  deriving DecidableEq, Repr

/-- The reasons the machine stops with a fault. -/
inductive Fault where
  /-- Raised by READ and WRITE in phase DECODE when the operation at the cursor has no recorded window. R35, R40:
  every operation of a transaction has one, so no run gets here. Safe: the machine stops where the spec has no
  case. -/
  | noWindowRecorded
  deriving DecidableEq, Repr

/-- The reasons an instruction is refused. -/
inductive Refusal where
  /-- Raised by an arm of `exec` whose instruction has no meaning yet. Safe: nothing is claimed of it. -/
  | notModelled (mnemonic : String)
  /-- Raised by READ and WRITE when no walk is in progress (phase IDLE or TRANSFER). R176, R180: an operation is
  executed only in phases ENCODE and DECODE, and `step` executes one in no other. Safe: the machine stops where the
  spec enables no step. -/
  | noWalkInProgress
  deriving DecidableEq, Repr

/-- R45 "unspecified": the values the model names for a configuration that no CONSTRUCT has captured yet. No rule
reads it before a CONSTRUCT succeeds (R23). DESIGN CHOICE, log entry 1. -/
def Cfg.unspecified : Cfg where
  hardwareAddress := 0#3
  bus := { clockMode := 0, maxClockHz := 0, bitOrder := .msbFirst, wordSize := 0, extraFlags := 0 }
  handles := { busHandle := 0, resetLine := 0, intaLine := 0, intbLine := 0, notifySink := 0 }

/-- R45, R230: the state before CONSTRUCT. -/
def State.reset : State where
  life := .unconstructed
  cfg := Cfg.unspecified
  phase := .idle
  ops := []
  k := 0
  off := 0
  out := []
  win := []
  inb := []
  res := []
  maxTxnBytes := none
  draws := 0
  host := []
  bus := []
  requests := []
  replies := []
  diag := []

end Sys2Proof.Machine
end

