-- ==== Sys2Proof/Machine/Ops.lean ====
section
/-! DEFINITION. The operations that the meanings share: the two byte sequences and their windows
(spec/20_memory.md R50 to R60), the result extractor (spec/42_read_write_operations.md R147, R148), the answers on
the channels, raising an error (spec/60_exceptions.md R200, R201), and the execution of one operation at the cursor
(spec/43_transaction_batcher.md R176, R180). -/

namespace Sys2Proof.Machine

/-! ### Byte sequences and windows -/

/-- R13: `s[a : a + n]`. -/
def slice {α : Type} (s : List α) (a n : Nat) : List α := (s.drop a).take n

/-- R15 `MemRead(addr, n)` of the inbound sequence, at a recorded window (R169). -/
def memRead (inbound : List Byte) (w : Window) : List Byte := slice inbound w.offset w.length

/-- R51: the bits of a byte in the order in which they stand on the wire, bit 7 first. -/
def wireBits (b : Byte) : List Bool := (List.range 8).map fun j => b.getLsbD (7 - j)

/-- R50, R51: the bits of a whole outbound sequence on the wire. -/
def wireSequence (out : List Byte) : List Bool := out.flatMap wireBits

/-- R161: the concatenation of the frames, in order. -/
def outbound (a : HwAddr) (ops : List Instr) : List Byte := ops.flatMap (encode a)

/-- R162: the windows of an operation list whose first frame begins at `offset`. -/
def windowsFrom (offset : Nat) : List Instr → List Window
  | [] => []
  | op :: rest => ⟨offset, op.frameLength⟩ :: windowsFrom (offset + op.frameLength) rest

/-- R162: the total length `L`. -/
def totalLength (ops : List Instr) : Nat := (ops.map Instr.frameLength).sum

/-- R80, R89: what a tool that knows the operation list checks of captured outbound bytes. -/
def conformsTo (a : HwAddr) (ops : List Instr) (captured : List Byte) : Bool := captured == outbound a ops

/-! ### The result extractor -/

/-- R147: "skip first 2 bytes, keep remaining N". Totalised as `slice[2:]`, as R153 allows (log entry 6). -/
def readResult (s : List Byte) : Result := .bytes (s.drop Config.headerLen)

/-- R148: "result = none"; the slice is ignored. -/
def writeResult (_ : List Byte) : Result := .absent

/-- `parse(op, slice)` of spec/42_read_write_operations.md. -/
def parse : Instr → List Byte → Result
  | .read _ _, s => readResult s
  | .write _ _, s => writeResult s

/-! ### Channels and errors -/

/-- An answer goes to the host. -/
def reply (r : Reply) (s : State) : State := { s with replies := s.replies ++ [r] }

/-- R116: a warning goes to the diagnostic channel. -/
def warn (w : ConfigurationWarning) (s : State) : State := { s with diag := s.diag ++ [w] }

/-- R196: a refusal changes nothing of the codec. -/
def refuse (reason : RefuseReason) (s : State) : State := reply (.refused reason) s

/-- R39: nothing transient survives a transaction. -/
def clearTransient (s : State) : State :=
  { s with phase := .idle, ops := [], k := 0, off := 0, out := [], win := [], inb := [], res := [] }

/-- Raising an error, the codec's whole "taking an exception". R200: a configuration error sets `LIFE` to
`REJECTED` and leaves `CFG` unwritten. R201: a transport error clears the transient state and leaves `LIFE` and
`CFG` untouched. Either way the error value is the command's answer; nothing is saved, there is no vector and no
return (R202). -/
def raise (e : ErrorValue) (s : State) : State :=
  match e with
  | .configuration _ => reply (.error e) { s with life := .rejected }
  | .transport _ => reply (.error e) (clearTransient s)

/-! ### One operation -/

/-- R176: record the window, append the frame (`MemWrite` at `len(OUT)`, R60), advance both cursors. -/
def appendFrame (f : List Byte) (s : State) : State :=
  { s with win := s.win ++ [⟨s.off, f.length⟩], out := s.out ++ f, off := s.off + f.length, k := s.k + 1 }

/-- R180: append a result, advance the cursor. -/
def appendResult (r : Result) (s : State) : State := { s with res := s.res ++ [r], k := s.k + 1 }

/-- The step of the operation at the cursor in the walk in progress: its frame is appended in phase ENCODE (R176),
its result is extracted from its window in phase DECODE (R180). In phases IDLE and TRANSFER no operation is
executed. -/
def operate (frame : List Byte) (extract : List Byte → Result) (s : State) :
    Host.Outcome State Fault Refusal :=
  match s.phase with
  | .encode => .next (appendFrame frame s)
  | .decode =>
    match s.win[s.k]? with
    | some w => .next (appendResult (extract (memRead s.inb w)) s)
    | none => .fault .noWindowRecorded
  | .idle => .refused .noWalkInProgress
  | .transfer => .refused .noWalkInProgress

end Sys2Proof.Machine
end

