-- ==== Sys2Proof/Machine/Construct.lean ====
section
/-! DEFINITION. The CONSTRUCT command (spec/40_config_validator.md R110 to R121). -/

namespace Sys2Proof.Machine

/-- R111 to R114, in the order of R115: the first violated constraint, with the value read. -/
def checkBus (b : BusConfig) : Option ConfigurationError :=
  if b.clockMode ∉ Config.clockModesOk then some (.clockMode b.clockMode)
  else if b.maxClockHz > Config.maxClockHz then some (.maxClockRate b.maxClockHz)
  else if b.bitOrder ≠ Config.bitOrderOk then some (.bitOrder b.bitOrder)
  else if b.wordSize ≠ Config.wordSizeOk then some (.wordSize b.wordSize)
  else none

/-- R116: one warning that carries the flags, if there are any. -/
def warnExtraFlags (b : BusConfig) (s : State) : State :=
  if b.extraFlags ≠ 0 then warn (.extraFlags b.extraFlags) s else s

/-- R118: capture the configuration and become usable. -/
def capture (a : HwAddr) (b : BusConfig) (h : Handles) (s : State) : State :=
  { s with cfg := ⟨a, b, h⟩, life := .usable }

/-- R110 CONSTRUCT. A command that arrives while a transaction is in flight is refused as `Busy`, whichever command
it is (R182, R234, R240; log entry 5). -/
def execConstruct (hw : RawNum) (b : BusConfig) (h : Handles) (s : State) : State :=
  if s.phase ≠ .idle then refuse .busy s
  else if s.life ≠ .unconstructed then refuse .alreadyConstructed s
  else
    match hwAddr? hw with
    | none => refuse .hardwareAddressRange s
    | some a =>
      match checkBus b with
      | some e => raise (.configuration e) s
      | none => reply .constructed (capture a b h (warnExtraFlags b s))

end Sys2Proof.Machine
end

