-- ==== Sys2Proof/Machine/Operations.lean ====
section
/-! DEFINITION. The meanings of the two operations, READ and WRITE (spec/42_read_write_operations.md R140, R141). -/

namespace Sys2Proof.Machine

/-- R140 READ: frame `[ctrl(a, 1), r] ++ rep(0xFF, N)`, result the slice without its first two bytes. -/
def execRead (r : RegAddr) (n : Nat) (s : State) : Host.Outcome State Fault Refusal :=
  operate (readFrame s.cfg.hardwareAddress r n) readResult s

/-- R141 WRITE: frame `[ctrl(a, 0), r] ++ d`, result `Absent` for every slice. -/
def execWrite (r : RegAddr) (d : List Byte) (s : State) : Host.Outcome State Fault Refusal :=
  operate (writeFrame s.cfg.hardwareAddress r d) writeResult s

end Sys2Proof.Machine
end

