-- ==== Sys2Proof/Machine/Dispatch.lean ====
section
/-! DEFINITION. One arm per constructor of Instr. -/

namespace Sys2Proof.Machine

/-- The meaning of an instruction. -/
def exec (i : Instr) (s : State) : Host.Outcome State Fault Refusal :=
  match i with
  | .read r n => Sys2Proof.Machine.execRead r n s
  | .write r d => Sys2Proof.Machine.execWrite r d s

end Sys2Proof.Machine
end

