-- ==== Sys2Proof/Machine/Transact.lean ====
section
/-! DEFINITION. The TRANSACT command (spec/43_transaction_batcher.md): acceptance (R163, R164), the steps of its
state machine (R175, R177 to R179, R181; the steps R176 and R180 are `operate`), and the same command as one atomic
function (R160). -/

namespace Sys2Proof.Machine

/-- R163: the total length exceeds the implementation's bound, if it has one. -/
def tooLong (limit : Option Nat) (length : Nat) : Bool :=
  match limit with
  | none => false
  | some m => decide (m < length)

/-- R175 `submit(ops)`. -/
def submit (ops : List Instr) (s : State) : State :=
  { s with phase := .encode, ops := ops, k := 0, off := 0, out := [], win := [], inb := [], res := [] }

/-- The host offers TRANSACT. R164: the conditions in their order; a refused command changes no state and makes no
transfer. -/
def execTransact (raw : List RawOp) (s : State) : State :=
  if s.life ≠ .usable then refuse .notUsable s
  else if s.phase ≠ .idle then refuse .busy s
  else
    match violationsFrom 0 raw with
    | v :: vs =>
      let named := namedViolation s.draws v vs
      refuse (.operandRange named.1 named.2) { s with draws := s.draws + 1 }
    | [] =>
      let ops := raw.filterMap instr?
      if tooLong s.maxTxnBytes (totalLength ops) then refuse (.transactionTooLong (totalLength ops)) s
      else submit ops s

/-- R177 `encode_done`: the whole of `OUT` is handed to the primitive in one request. -/
def encodeDone (s : State) : State := { s with requests := s.requests ++ [s.out], phase := .transfer }

/-- R178 `transfer_return(inb)`, with the length check of R167. -/
def transferReturn (inbound : List Byte) (s : State) : State :=
  if inbound.length = s.out.length then { s with inb := inbound, k := 0, phase := .decode }
  else raise (.transport (.lengthMismatch s.out.length inbound.length)) s

/-- R179 `transfer_fail(e)`. -/
def transferFail (e : PrimitiveError) (s : State) : State := raise (.transport (.primitiveFailure e)) s

/-- R181 `decode_done`: deliver the results, then clear the transient state. -/
def decodeDone (s : State) : State := reply (.results s.res) (clearTransient s)

/-- R178, R179, R240: the primitive answers, or the codec goes on waiting, without a time limit. -/
def awaitAnswer (s : State) : State :=
  match s.bus with
  | [] => s
  | .sequence inbound :: rest => transferReturn inbound { s with bus := rest }
  | .failure e :: rest => transferFail e { s with bus := rest }

/-! ### TRANSACT as one function -/

/-- R160, R169: the results, each from the operation's own window of the inbound sequence. -/
def demux (ops : List Instr) (inbound : List Byte) : List Result :=
  List.zipWith (fun op w => parse op (memRead inbound w)) ops (windowsFrom 0 ops)

/-- R160: the answer of an accepted TRANSACT, given the primitive's answer. -/
def transactReply (a : HwAddr) (ops : List Instr) : BusAnswer → Reply
  | .failure e => .error (.transport (.primitiveFailure e))
  | .sequence inbound =>
    if inbound.length = (outbound a ops).length then .results (demux ops inbound)
    else .error (.transport (.lengthMismatch (outbound a ops).length inbound.length))

/-- R160: the state after an accepted TRANSACT, given the primitive's answer: one transfer made, one answer given,
nothing else changed. -/
def transactAtomically (ops : List Instr) (answer : BusAnswer) (s : State) : State :=
  reply (transactReply s.cfg.hardwareAddress ops answer)
    { s with requests := s.requests ++ [outbound s.cfg.hardwareAddress ops] }

end Sys2Proof.Machine
end

