-- ==== Sys2Proof/Machine/Agents.lean ====
section
/-! DEFINITION. What each agent of spec/00_scope.md R19 does at a step: the host submits a command, the codec takes
one micro-step of spec/43_transaction_batcher.md section 6, which in phase TRANSFER is the primitive's answer; and
the fetch of the next operation. -/

namespace Sys2Proof.Machine

/-- The host submits a command (R3). -/
def submitCommand (c : Command) (s : State) : State :=
  match c with
  | .construct hw b h => execConstruct hw b h s
  | .transact ops => execTransact ops s

/-- R31, R69: the operation at the cursor, fetched from the captured list. -/
def fetch? (s : State) : Option Instr := s.ops[s.k]?

/-- The codec's own step. IDLE: it waits for a command (R45, R212). ENCODE: R176, R177. TRANSFER: R178, R179, R240.
DECODE: R180, R181. -/
def codecStep (s : State) : Host.Outcome State Fault Refusal :=
  match s.phase with
  | .idle => .next s
  | .encode =>
    match fetch? s with
    | some i => exec i s
    | none => .next (encodeDone s)
  | .transfer => .next (awaitAnswer s)
  | .decode =>
    match fetch? s with
    | some i => exec i s
    | none => .next (decodeDone s)

/-- No command arrives at this step: the host has nothing to say, or its next call waits for the transaction in
flight to end (R234). -/
def hostWaits (s : State) : Bool :=
  match s.host with
  | [] => true
  | .call _ :: _ => s.phase != .idle
  | .overlap _ :: _ => false
  | .quiet :: _ => false

/-- One step of the system of host, codec and primitive, scheduled by the host channel (log entry 2). -/
def systemStep (s : State) : Host.Outcome State Fault Refusal :=
  match s.host with
  | [] => codecStep s
  | .quiet :: rest => codecStep { s with host := rest }
  | .overlap c :: rest => .next (submitCommand c { s with host := rest })
  | .call c :: rest => if s.phase = .idle then .next (submitCommand c { s with host := rest }) else codecStep s

/-- The state in which the very next step fetches and runs the operation of the frame: an instance with the frame's
hardware address that has accepted a transaction of this one operation (R175), with no command arriving. -/
def loadFrame (f : Frame) (s : State) : State :=
  submit [f.instr] { s with life := .usable, cfg := { s.cfg with hardwareAddress := f.addr }, host := [] }

end Sys2Proof.Machine
end

