-- ==== Sys2Proof/Machine/Step.lean ====
section
/-! DEFINITION. One step of the machine, and the placing of one instruction where it is fetched. -/

namespace Sys2Proof.Machine

/-- One step (spec/00_scope.md R19). -/
def step (s : State) : Host.Outcome State Fault Refusal := systemStep s

/-- The state with the instruction of a table word placed where `step` fetches its next one (log entry 8). A word
that the decoder rejects stands for no operation, and nothing is placed. -/
def State.withFetchWord (s : State) (nbits w : Nat) : State :=
  match decodeTableFrame nbits w with
  | some f => loadFrame f s
  | none => s

end Sys2Proof.Machine
end

