-- ==== Sys2Proof/Machine/Flags.lean ====
section
/-! DEFINITION. Flags: the codec has none (spec/10_state.md R41: "no status flags, condition codes or predicates").
What stands in their place is the outcome of a command, carried by the command's answer; this file holds the
numbering that spec/60_exceptions.md R191 to R193 gives the causes (the spec's own, R195, decision D9). -/

namespace Sys2Proof.Machine

/-- R191: codes 1 to 4. -/
def ConfigurationError.code : ConfigurationError → Nat
  | .clockMode _ => 1
  | .maxClockRate _ => 2
  | .bitOrder _ => 3
  | .wordSize _ => 4

/-- R192: code 5. -/
def ConfigurationWarning.code : ConfigurationWarning → Nat
  | .extraFlags _ => 5

/-- R193: codes 6 and 7. -/
def TransportError.code : TransportError → Nat
  | .primitiveFailure _ => 6
  | .lengthMismatch _ _ => 7

/-- The code of the error that ends a command. -/
def ErrorValue.code : ErrorValue → Nat
  | .configuration e => e.code
  | .transport e => e.code

end Sys2Proof.Machine
end

