-- ==== Sys2Proof/Safety.lean ====
section
/-! DEFINITION. What counts as a well-kept state and a safe run: the bookkeeping invariant of spec/10_state.md R39 and
R40, and the terms in which claims speak of hosts, bus configurations and operands. -/

namespace Sys2Proof.Machine

/-- `n` steps lead from `s` to `t`, none of them a fault or a refusal. -/
def Reaches (n : Nat) (s t : State) : Prop := Host.Core.run Sys2Proof.core n s = .next t

/-- The host keeps the duty of R234: it issues its commands one at a time. -/
def SerialHost (events : List HostEvent) : Prop := ∀ e ∈ events, ∃ c, e = .call c

/-- The commands among the events that arrive whatever the phase, in order (log entry 2). -/
def overlapping (events : List HostEvent) : List Command :=
  events.filterMap fun
    | .overlap c => some c
    | .call _ => none
    | .quiet => none

/-- The command that arrives at the machine's next step. -/
def Arrives (c : Command) (rest : List HostEvent) (s : State) : Prop :=
  s.host = .overlap c :: rest ∨ (s.host = .call c :: rest ∧ s.phase = .idle)

/-- The machine's next step is the codec's own, taken from `t`: no command arrives, or the host channel is quiet at
this step. -/
def CodecTurn (s t : State) : Prop :=
  (hostWaits s = true ∧ t = s) ∨ ∃ rest, s.host = .quiet :: rest ∧ t = { s with host := rest }

/-- R163: an operation list fits the implementation's bound, if it has one. -/
def Fits (limit : Option Nat) (ops : List Instr) : Prop := ∀ m, limit = some m → totalLength ops ≤ m

/-- The four constraints on a bus configuration (R111 to R114). -/
abbrev LegalBus (b : BusConfig) : Prop :=
  (b.clockMode = 0 ∨ b.clockMode = 3) ∧ b.maxClockHz ≤ 10000000 ∧ b.bitOrder = .msbFirst ∧ b.wordSize = 8

/-- The error names a parameter of `b` that violates its constraint (R115). The value that it carries is the spec's
addition (decision D9), and nothing is said of it here. -/
def NamesViolation (b : BusConfig) : ConfigurationError → Prop
  | .clockMode _ => b.clockMode ≠ 0 ∧ b.clockMode ≠ 3
  | .maxClockRate _ => 10000000 < b.maxClockHz
  | .bitOrder _ => b.bitOrder ≠ .msbFirst
  | .wordSize _ => b.wordSize ≠ 8

/-- The field of the operation is out of its range (R154). -/
def OutOfRange : RawOp → OperandField → Prop
  | .read r _, .registerAddress => r.isByte = false
  | .read _ n, .byteCount => n.isNat = false
  | .read _ _, .dataBytes => False
  | .write r _, .registerAddress => r.isByte = false
  | .write _ _, .byteCount => False
  | .write _ d, .dataBytes => ∃ x ∈ d, x.isByte = false

/-- R40, for the operations whose frames have been appended: their windows, their frames and the byte count. -/
structure Framed (done : List Instr) (s : State) : Prop where
  windows : s.win = windowsFrom 0 done
  frames  : s.out = outbound s.cfg.hardwareAddress done
  offset  : s.off = s.out.length

/-- The invariant that every step keeps (R22, R36 to R40, R111 to R114, R163). -/
structure Inv (s : State) : Prop where
  /-- R39: an idle codec holds nothing of a transaction. -/
  idle : s.phase = .idle →
    s.ops = [] ∧ s.k = 0 ∧ s.off = 0 ∧ s.out = [] ∧ s.win = [] ∧ s.inb = [] ∧ s.res = []
  /-- R22, R164: only a usable instance has a transaction in flight. -/
  gated : s.phase ≠ .idle → s.life = .usable
  /-- R25 to R28: the captured configuration of a usable instance is legal. -/
  legal : s.life = .usable → LegalBus s.cfg.bus
  /-- R163: the transaction in flight fits the implementation's bound. -/
  fits : Fits s.maxTxnBytes s.ops
  /-- R40, phase ENCODE. -/
  encoding : s.phase = .encode → s.k ≤ s.ops.length ∧ Framed (s.ops.take s.k) s ∧ s.inb = [] ∧ s.res = []
  /-- R40, phase TRANSFER: the request that is outstanding carries the whole of `OUT` (R165). -/
  transferring : s.phase = .transfer →
    Framed s.ops s ∧ s.inb = [] ∧ s.res = [] ∧ s.requests.getLast? = some s.out
  /-- R40, phase DECODE: the full-duplex invariant (R36) and the results so far (R169). -/
  decoding : s.phase = .decode →
    s.k ≤ s.ops.length ∧ Framed s.ops s ∧ s.inb.length = s.out.length ∧ s.res = (demux s.ops s.inb).take s.k

/-- The calls by which a serial host submits a session: transactions in submission order, each paired with the
primitive's answer to its transfer. -/
def sessionCalls (session : List (List Instr × BusAnswer)) : List HostEvent :=
  session.map fun t => .call (.transact (t.1.map RawOp.ofInstr))

/-- The answers that the primitive gives to the session's transfers. -/
def sessionAnswers (session : List (List Instr × BusAnswer)) : List BusAnswer := session.map Prod.snd

end Sys2Proof.Machine
end

