-- ==== Sys2Proof/Certificates/Slice0/Obligations.lean ====
section
/-! DEFINITION. The statements about the codec, one def of type Prop each. -/

open Sys2Proof Sys2Proof.Machine

/-! ### The control byte and the frames -/

/-- 41_control_byte.md R130: the control-byte formula, its arithmetic form, its range and the spec's values. -/
def Obligations.ControlByteFormula : Prop :=
  (∀ (a : HwAddr) (rw : BitVec 1),
    (ctrl a rw).toNat = (0b0100 <<< 4) ||| (a.toNat <<< 1) ||| rw.toNat ∧
    (ctrl a rw).toNat = 0x40 + 2 * a.toNat + rw.toNat ∧
    0x40 ≤ (ctrl a rw).toNat ∧ (ctrl a rw).toNat ≤ 0x4F) ∧
  (∀ (r : RegAddr) (n : Nat), (Instr.read r n).rw = 1#1) ∧
  (∀ (r : RegAddr) (d : List Byte), (Instr.write r d).rw = 0#1) ∧
  ctrl 0#3 0#1 = 0x40#8 ∧ ctrl 0#3 1#1 = 0x41#8 ∧ ctrl 7#3 0#1 = 0x4E#8 ∧ ctrl 7#3 1#1 = 0x4F#8 ∧
  ctrl 2#3 0#1 = 0x44#8 ∧ ctrl 2#3 1#1 = 0x45#8

/-- 41_control_byte.md R131: where the three fields stand. -/
def Obligations.ControlByteFields : Prop :=
  ∀ (a : HwAddr) (rw : BitVec 1),
    (ctrl a rw).extractLsb' 4 4 = 0b0100#4 ∧ (ctrl a rw).extractLsb' 1 3 = a ∧ (ctrl a rw).extractLsb' 0 1 = rw

/-- 41_control_byte.md section on the arithmetic law (R132, the spec's own inference from R130): the three terms are
bitwise disjoint and the function is injective. -/
def Obligations.ControlByteRecoversInputs : Prop :=
  (∀ (a : HwAddr) (rw : BitVec 1),
    (0b0100 <<< 4) &&& (a.toNat <<< 1) = 0 ∧ (0b0100 <<< 4) &&& rw.toNat = 0 ∧ (a.toNat <<< 1) &&& rw.toNat = 0) ∧
  ∀ (a b : HwAddr) (v w : BitVec 1), ctrl a v = ctrl b w → a = b ∧ v = w

/-- 42_read_write_operations.md R143: every frame's length. -/
def Obligations.FrameLengthIsTwoPlusPayload : Prop :=
  (∀ (a : HwAddr) (i : Instr), (encode a i).length = 2 + i.payloadLength) ∧
  (∀ (a : HwAddr) (r : RegAddr) (n : Nat), (encode a (.read r n)).length = 2 + n) ∧
  ∀ (a : HwAddr) (r : RegAddr) (d : List Byte), (encode a (.write r d)).length = 2 + d.length

/-- 42_read_write_operations.md R144: the frame of a WRITE "equals `[control, addr] + bytes` exactly". -/
def Obligations.WritePayloadIsLiteral : Prop :=
  ∀ (a : HwAddr) (r : RegAddr) (d : List Byte),
    encode a (.write r d) = [ctrl a 0#1, r] ++ d ∧ ∀ j, (encode a (.write r d))[2 + j]? = d[j]?

/-- 42_read_write_operations.md R145: the payload bytes of a READ frame are all `0xFF`. -/
def Obligations.ReadPayloadIsFiller : Prop :=
  ∀ (a : HwAddr) (r : RegAddr) (n j : Nat), 2 ≤ j → j ≤ 1 + n → (encode a (.read r n))[j]? = some 0xFF#8

/-- 30_encoding.md R87: the control bytes of an instance, and of all instances. -/
def Obligations.OpcodeIsBitZeroOfControlByte : Prop :=
  (∀ (a : HwAddr) (r : RegAddr) (n : Nat),
    (encode a (.read r n)).head? = some (BitVec.ofNat 8 (0x41 + 2 * a.toNat))) ∧
  (∀ (a : HwAddr) (r : RegAddr) (d : List Byte),
    (encode a (.write r d)).head? = some (BitVec.ofNat 8 (0x40 + 2 * a.toNat))) ∧
  ∀ c : Byte, (∃ a i, (encode a i).head? = some c) ↔ 0x40 ≤ c.toNat ∧ c.toNat ≤ 0x4F

/-- Decode and encode agree (30_encoding.md sections 1 and 2): the decoder, which is the model's own (log entry 18),
reads back every frame, with every operand, under either rule for the filler. -/
def Obligations.DecodeOfEncodeIsTheInstruction : Prop :=
  ∀ (rule : FillerRule) (a : HwAddr) (i : Instr), decodeFrame rule (encode a i) = .ok ⟨a, i⟩

/-- The other direction: what the decoder (the model's own, log entry 18) accepts as the codec's own output is exactly the frame it names, so each
byte sequence has one meaning. -/
def Obligations.EncodeOfDecodeIsTheFrame : Prop :=
  ∀ (bytes : List Byte) (f : Frame), decodeFrame .codecOutput bytes = .ok f → encode f.addr f.instr = bytes

/-- What the model's own decoder rejects, by name (log entry 18: the spec's codec never decodes a frame, so the
decoder, its three rejections and their names are the model's choice). They rest on the spec's facts that a frame has
at least two bytes, that no control byte lies outside `0x40 .. 0x4F`, and that a filler other than `0xFF` may stand
in a foreign trace only. -/
def Obligations.DecoderRejectsByName : Prop :=
  (∀ (rule : FillerRule) (bytes : List Byte), bytes.length < 2 → decodeFrame rule bytes = .error .tooShort) ∧
  (∀ (rule : FillerRule) (c r : Byte) (p : List Byte), c.toNat < 0x40 ∨ 0x4F < c.toNat →
    decodeFrame rule (c :: r :: p) = .error (.notThisFamily c)) ∧
  ∀ (a : HwAddr) (r : Byte) (p : List Byte), (∃ x ∈ p, x ≠ 0xFF#8) →
    decodeFrame .codecOutput (ctrl a 1#1 :: r :: p) = .error .fillerNotFF ∧
    decodeFrame .foreignTrace (ctrl a 1#1 :: r :: p) = .ok ⟨a, .read r p.length⟩

/-- Words written out from 30_encoding.md R81 and 95_test_vectors.md S7, S8, T3 and T4, and what the model's own
decoder (log entry 18) reads from them. In the three table words the missing register-address byte is filled with 0,
which is the model's reading of the table (log entry 9). -/
def Obligations.SampleWordsDecode : Prop :=
  decodeFrame .codecOutput [0b01000101#8, 0x09#8, 0xFF#8] = .ok ⟨2#3, .read 0x09#8 1⟩ ∧
  decodeFrame .codecOutput [0b01000100#8, 0x00#8, 0xFF#8] = .ok ⟨2#3, .write 0x00#8 [0xFF#8]⟩ ∧
  decodeFrame .codecOutput [0b01001101#8, 0x10#8] = .ok ⟨6#3, .read 0x10#8 0⟩ ∧
  decodeFrame .codecOutput [0b01000000#8, 0x41#8, 0x41#8, 0x40#8] = .ok ⟨0#3, .write 0x41#8 [0x41#8, 0x40#8]⟩ ∧
  decodeTableWord 8 0b01000001 = some (.read 0#8 0) ∧ decodeTableWord 8 0b01001110 = some (.write 0#8 []) ∧
  decodeTableWord 8 0b01010000 = none

/-! ### READ and WRITE -/

/-- 42_read_write_operations.md R140: the frame and the result of a READ, with the spec's example. (What the batcher
does with them is `ReadInEachWalk`.) -/
def Obligations.ReadOperation : Prop :=
  (∀ (r : RegAddr) (n : Nat),
    (∀ a : HwAddr, encode a (.read r n) = [ctrl a 1#1, r] ++ List.replicate n 0xFF#8) ∧
    ∀ sl : List Byte, sl.length = 2 + n → parse (.read r n) sl = .bytes (slice sl 2 n)) ∧
  encode 2#3 (.read 0x09#8 1) = [0x45#8, 0x09#8, 0xFF#8] ∧
  parse (.read 0x09#8 1) [0x00#8, 0x00#8, 0xAB#8] = .bytes [0xAB#8]

/-- 42_read_write_operations.md R141: the frame and the result of a WRITE, which ignores the slice. (What the batcher
does with them is `WriteInEachWalk`.) -/
def Obligations.WriteOperation : Prop :=
  (∀ (r : RegAddr) (d : List Byte),
    (∀ a : HwAddr, encode a (.write r d) = [ctrl a 0#1, r] ++ d) ∧
    ∀ sl : List Byte, parse (.write r d) sl = .absent) ∧
  encode 2#3 (.write 0x00#8 [0xFF#8]) = [0x44#8, 0x00#8, 0xFF#8]

/-- READ completes (43_transaction_batcher.md section 6, R176 and R180, the spec's own decomposition into phases,
decision D14): in the encode walk its frame is appended and its window recorded, in the decode walk its result is
taken from its window; nothing else changes. -/
def Obligations.ReadInEachWalk : Prop :=
  ∀ (r : RegAddr) (n : Nat) (s : State),
    (s.phase = .encode → exec (.read r n) s = .next { s with
      win := s.win ++ [⟨s.off, 2 + n⟩]
      out := s.out ++ ([ctrl s.cfg.hardwareAddress 1#1, r] ++ List.replicate n 0xFF#8)
      off := s.off + (2 + n)
      k := s.k + 1 }) ∧
    ∀ w : Window, s.phase = .decode → s.win[s.k]? = some w →
      (slice s.inb w.offset w.length).length = 2 + n →
      exec (.read r n) s = .next { s with
        res := s.res ++ [.bytes (slice s.inb (w.offset + 2) n)]
        k := s.k + 1 }

/-- WRITE completes (43_transaction_batcher.md section 6, R176 and R180, the spec's own decomposition into phases,
decision D14), likewise; its result is `Absent`. -/
def Obligations.WriteInEachWalk : Prop :=
  ∀ (r : RegAddr) (d : List Byte) (s : State),
    (s.phase = .encode → exec (.write r d) s = .next { s with
      win := s.win ++ [⟨s.off, 2 + d.length⟩]
      out := s.out ++ ([ctrl s.cfg.hardwareAddress 0#1, r] ++ d)
      off := s.off + (2 + d.length)
      k := s.k + 1 }) ∧
    ∀ w : Window, s.phase = .decode → s.win[s.k]? = some w →
      exec (.write r d) s = .next { s with res := s.res ++ [.absent], k := s.k + 1 }

/-- The frame of READ and WRITE (42_read_write_operations.md sections 1 and 3, 20_memory.md section 3): whatever the
operation, only the state of the walk in progress changes, every outbound byte outside the stored frame stays, and
nothing recorded earlier is altered. -/
def Obligations.OperationChangesOnlyItsWalk : Prop :=
  ∀ (i : Instr) (s s' : State), exec i s = .next s' →
    s'.life = s.life ∧ s'.cfg = s.cfg ∧ s'.phase = s.phase ∧ s'.ops = s.ops ∧ s'.inb = s.inb ∧
    s'.maxTxnBytes = s.maxTxnBytes ∧ s'.draws = s.draws ∧ s'.host = s.host ∧ s'.bus = s.bus ∧
    s'.requests = s.requests ∧ s'.replies = s.replies ∧ s'.diag = s.diag ∧ s'.k = s.k + 1 ∧
    (s.phase = .encode →
      s'.res = s.res ∧ s'.off = s.off + (2 + i.payloadLength) ∧
      s'.out.length = s.out.length + (2 + i.payloadLength) ∧ s'.win.length = s.win.length + 1 ∧
      (∀ j, j < s.out.length ∨ s.out.length + (2 + i.payloadLength) ≤ j → s'.out[j]? = s.out[j]?) ∧
      ∀ j, j < s.win.length → s'.win[j]? = s.win[j]?) ∧
    (s.phase = .decode →
      s'.out = s.out ∧ s'.win = s.win ∧ s'.off = s.off ∧ s'.res.length = s.res.length + 1 ∧
      ∀ j, j < s.res.length → s'.res[j]? = s.res[j]?)

/-- When an operation completes, and how it stops otherwise: the model's choice where 43_transaction_batcher.md
section 6 enables no step (log entry 7). -/
def Obligations.OperationCompletesExactlyInItsWalks : Prop :=
  ∀ (i : Instr) (s : State),
    ((∃ s', exec i s = .next s') ↔ s.phase = .encode ∨ (s.phase = .decode ∧ s.k < s.win.length)) ∧
    ((s.phase = .idle ∨ s.phase = .transfer) → exec i s = .refused .noWalkInProgress) ∧
    (s.phase = .decode → s.win.length ≤ s.k → exec i s = .fault .noWindowRecorded)

/-- 42_read_write_operations.md R146 and 30_encoding.md R85: byte 0 of every frame is the control byte, byte 1 the
register address unchanged, in every frame of every transaction with the instance's own hardware address. -/
def Obligations.EveryFrameCarriesItsHeader : Prop :=
  (∀ (a : HwAddr) (i : Instr),
    (encode a i)[0]? = some (ctrl a i.rw) ∧ (encode a i)[1]? = some i.registerAddress) ∧
  ∀ (s : State) (ops : List Instr) (answer : BusAnswer), ∃ out : List Byte,
    (transactAtomically ops answer s).requests = s.requests ++ [out] ∧
    ∀ (k : Nat) (op : Instr) (w : Window), ops[k]? = some op → (windowsFrom 0 ops)[k]? = some w →
      out[w.offset]? = some (ctrl s.cfg.hardwareAddress op.rw) ∧ out[w.offset + 1]? = some op.registerAddress

/-- 42_read_write_operations.md R151: the length of a result. -/
def Obligations.ResultLengthIsPayloadLength : Prop :=
  (∀ (r : RegAddr) (n : Nat) (sl : List Byte), sl.length = 2 + n →
    ∃ b, parse (.read r n) sl = .bytes b ∧ b.length = (Instr.read r n).payloadLength ∧ b.length = n) ∧
  ∀ (r : RegAddr) (d sl : List Byte), parse (.write r d) sl = .absent

/-- 42_read_write_operations.md section 3 (R152, the spec's own inference): "the last N bytes" and "all but the
first 2 bytes" agree on every slice of length `2 + N`. -/
def Obligations.SkipTwoAgreesWithLastN : Prop :=
  ∀ (r : RegAddr) (n : Nat) (sl : List Byte), sl.length = 2 + n →
    parse (.read r n) sl = .bytes (sl.drop (sl.length - n)) ∧ parse (.read r n) sl = .bytes (sl.drop 2)

/-- 42_read_write_operations.md R149 and R150: the zero-length operations. -/
def Obligations.ZeroLengthOperations : Prop :=
  ∀ (a : HwAddr) (r : RegAddr) (o : Nat) (x y : Byte),
    encode a (.read r 0) = [ctrl a 1#1, r] ∧ windowsFrom o [.read r 0] = [⟨o, 2⟩] ∧
    parse (.read r 0) [x, y] = .bytes [] ∧ demux [.read r 0] [x, y] = [.bytes []] ∧
    encode a (.write r []) = [ctrl a 0#1, r] ∧ windowsFrom o [.write r []] = [⟨o, 2⟩] ∧
    parse (.write r []) [x, y] = .absent

/-- Fetch and execution: when it is the codec's turn in phase ENCODE or DECODE, the step is `exec` of the operation
at the cursor (43_transaction_batcher.md section 6; the turn is the model's schedule, log entry 2). -/
def Obligations.StepRunsOperationAtCursor : Prop :=
  ∀ (s t : State) (i : Instr), CodecTurn s t → (t.phase = .encode ∨ t.phase = .decode) →
    t.ops[t.k]? = some i → step s = exec i t

/-- A placed word is fetched and run by the very next step (the model's own loading, log entry 8, and
its own reading of a table word, log entry 9). -/
def Obligations.PlacedWordRunsNext : Prop :=
  ∀ (s : State) (nbits w : Nat) (i : Instr), decodeTableWord nbits w = some i →
    step (s.withFetchWord nbits w) = exec i (s.withFetchWord nbits w) ∧
    ∃ s', step (s.withFetchWord nbits w) = .next s' ∧ s'.out = tableBytes nbits w

/-! ### CONSTRUCT -/

/-- 40_config_validator.md R118: on success the configuration is captured, the instance is usable, and nothing is
transmitted. (Which warning is emitted is said by `FirstViolationIsReported`; without extra flags there is none.) -/
def Obligations.ConstructCapturesConfiguration : Prop :=
  ∀ (s : State) (rest : List HostEvent) (a : HwAddr) (b : BusConfig) (h : Handles),
    Arrives (.construct (.int a.toNat) b h) rest s → s.phase = .idle → s.life = .unconstructed → LegalBus b →
    ∃ warnings, step s = .next { s with
      host := rest
      cfg := ⟨a, b, h⟩
      life := .usable
      diag := s.diag ++ warnings
      replies := s.replies ++ [.constructed] } ∧ (b.extraFlags = 0 → warnings = [])

/-- 40_config_validator.md R111 to R114: construction succeeds only if all four constraints hold; otherwise it fails
with a configuration error that names a violated parameter, whichever of several it is. -/
def Obligations.ConfigurationErrorNamesViolatedParameter : Prop :=
  ∀ (s : State) (rest : List HostEvent) (hw : RawNum) (b : BusConfig) (h : Handles),
    Arrives (.construct hw b h) rest s → s.phase = .idle → s.life = .unconstructed → hw.isHwAddr = true →
    (LegalBus b → ∃ s', step s = .next s' ∧ s'.life = .usable) ∧
    (¬ LegalBus b → ∃ s' e, step s = .next s' ∧ s'.life ≠ .usable ∧ s'.cfg = s.cfg ∧ s'.requests = s.requests ∧
      NamesViolation b e ∧ s'.replies = s.replies ++ [.error (.configuration e)])

/-- 40_config_validator.md section 2 (R115, decision D7): the checks run in the listed order and the first violation
is the one reported, with the value read (decision D9), the instance is rejected (D10), and a warning that carries the
extra flags is emitted only when all four have passed (R116, decision D8). -/
def Obligations.FirstViolationIsReported : Prop :=
  ∀ (s : State) (rest : List HostEvent) (hw : RawNum) (b : BusConfig) (h : Handles),
    Arrives (.construct hw b h) rest s → s.phase = .idle → s.life = .unconstructed → hw.isHwAddr = true →
    (b.clockMode ≠ 0 ∧ b.clockMode ≠ 3 → step s = .next { s with
      host := rest, life := .rejected
      replies := s.replies ++ [.error (.configuration (.clockMode b.clockMode))] }) ∧
    ((b.clockMode = 0 ∨ b.clockMode = 3) ∧ 10000000 < b.maxClockHz → step s = .next { s with
      host := rest, life := .rejected
      replies := s.replies ++ [.error (.configuration (.maxClockRate b.maxClockHz))] }) ∧
    ((b.clockMode = 0 ∨ b.clockMode = 3) ∧ b.maxClockHz ≤ 10000000 ∧ b.bitOrder ≠ .msbFirst →
      step s = .next { s with
        host := rest, life := .rejected
        replies := s.replies ++ [.error (.configuration (.bitOrder b.bitOrder))] }) ∧
    ((b.clockMode = 0 ∨ b.clockMode = 3) ∧ b.maxClockHz ≤ 10000000 ∧ b.bitOrder = .msbFirst ∧ b.wordSize ≠ 8 →
      step s = .next { s with
        host := rest, life := .rejected
        replies := s.replies ++ [.error (.configuration (.wordSize b.wordSize))] }) ∧
    (LegalBus b → ∃ s', step s = .next s' ∧ s'.life = .usable ∧ s'.replies = s.replies ++ [.constructed] ∧
      s'.diag = s.diag ++ (if b.extraFlags = 0 then [] else [.extraFlags b.extraFlags]))

/-- 40_config_validator.md section 4 (R120, R121, decisions D3 and D10): the refusals of CONSTRUCT on an idle
codec, which change nothing. -/
def Obligations.ConstructRefusals : Prop :=
  ∀ (s : State) (rest : List HostEvent) (hw : RawNum) (b : BusConfig) (h : Handles),
    Arrives (.construct hw b h) rest s → s.phase = .idle →
    (s.life ≠ .unconstructed →
      step s = .next { s with host := rest, replies := s.replies ++ [.refused .alreadyConstructed] }) ∧
    (s.life = .unconstructed → hw.isHwAddr = false →
      step s = .next { s with host := rest, replies := s.replies ++ [.refused .hardwareAddressRange] })

/-- 10_state.md section 2 (R23, R24): whatever the step, the configuration of a usable instance never changes, and a
configuration is written only by the step that makes the instance usable. -/
def Obligations.CapturedConfigurationIsImmutable : Prop :=
  ∀ s s' : State, step s = .next s' →
    (s.life = .usable → s'.life = .usable ∧ s'.cfg = s.cfg) ∧
    (s'.cfg ≠ s.cfg → s.life = .unconstructed ∧ s'.life = .usable)

/-- 10_state.md section 2 (R22, decision D10): `LIFE` changes only from `UNCONSTRUCTED`, only by a CONSTRUCT that
arrives at an idle codec, and to `USABLE` exactly when the bus configuration is legal. -/
def Obligations.LifecycleMovesOnlyByConstruct : Prop :=
  ∀ s s' : State, step s = .next s' → s'.life ≠ s.life →
    s.life = .unconstructed ∧ s.phase = .idle ∧ ∃ hw b h rest, Arrives (.construct hw b h) rest s ∧
      ((LegalBus b ∧ s'.life = .usable) ∨ (¬ LegalBus b ∧ s'.life = .rejected))

/-! ### TRANSACT: acceptance and refusals -/

/-- 42_read_write_operations.md section 4 (R154, decision D4): a typed operation is well formed, and a well-formed
untyped operation stands for exactly one typed one. -/
def Obligations.WellFormedOperationsAreTheTypedOnes : Prop :=
  (∀ i : Instr, (RawOp.ofInstr i).wellFormed = true) ∧
  ∀ op : RawOp, op.wellFormed = true → ∃ i, op = RawOp.ofInstr i ∧ instr? op = some i ∧
    ∀ j, op = RawOp.ofInstr j → j = i

/-- 43_transaction_batcher.md section 6 (R175, decision D14): an accepted TRANSACT captures the operation list and
starts the encode walk. -/
def Obligations.AcceptedTransactionIsCaptured : Prop :=
  ∀ (s : State) (rest : List HostEvent) (ops : List Instr),
    Arrives (.transact (ops.map .ofInstr)) rest s → s.life = .usable → s.phase = .idle → Fits s.maxTxnBytes ops →
    step s = .next { s with
      host := rest, phase := .encode, ops := ops, k := 0, off := 0, out := [], win := [], inb := [], res := [] }

/-- 42_read_write_operations.md section 4 (R154, decision D4): a TRANSACT that holds an ill-formed operation is
refused as a whole, naming an operand that is out of range; which of several is free (log entry 4). -/
def Obligations.IllFormedOperationRefusesTransaction : Prop :=
  ∀ (s : State) (rest : List HostEvent) (raw : List RawOp),
    Arrives (.transact raw) rest s → s.life = .usable → s.phase = .idle → (∃ op ∈ raw, op.wellFormed = false) →
    ∃ (index : Nat) (field : OperandField) (op : RawOp) (draws : Nat), raw[index]? = some op ∧ OutOfRange op field ∧ step s = .next { s with
      host := rest, draws := draws, replies := s.replies ++ [.refused (.operandRange index field)] }

/-- 43_transaction_batcher.md section 2 (R163, R164, decisions D4, D5, D10, D16): the refusals of TRANSACT in their
order, each changing no state and making no transfer. -/
def Obligations.TransactRefusalOrder : Prop :=
  ∀ (s : State) (rest : List HostEvent) (raw : List RawOp), Arrives (.transact raw) rest s →
    (s.life ≠ .usable →
      step s = .next { s with host := rest, replies := s.replies ++ [.refused .notUsable] }) ∧
    (s.life = .usable → s.phase ≠ .idle →
      step s = .next { s with host := rest, replies := s.replies ++ [.refused .busy] }) ∧
    ∀ (m : Nat) (ops : List Instr), s.life = .usable → s.phase = .idle → raw = ops.map .ofInstr →
      s.maxTxnBytes = some m → m < totalLength ops →
      step s = .next { s with
        host := rest, replies := s.replies ++ [.refused (.transactionTooLong (totalLength ops))] }

/-- 70_reset_and_hazards.md section 3 (R234, R240, decision D16): a command that arrives while a transaction is in
flight is refused as `Busy`, whichever command it is (log entry 5), and disturbs nothing. -/
def Obligations.CommandInFlightIsBusy : Prop :=
  ∀ (s : State) (rest : List HostEvent) (c : Command), s.host = .overlap c :: rest → s.phase ≠ .idle →
    s.life = .usable → step s = .next { s with host := rest, replies := s.replies ++ [.refused .busy] }

/-! ### TRANSACT: the transfer and the end -/

/-- 43_transaction_batcher.md section 6 (R177, decision D14): when every operation is encoded the whole of `OUT` is
handed to the primitive in one request. -/
def Obligations.EncodedTransactionIsRequestedOnce : Prop :=
  ∀ s t : State, CodecTurn s t → t.phase = .encode → t.k = t.ops.length →
    step s = .next { t with requests := t.requests ++ [t.out], phase := .transfer }

/-- 43_transaction_batcher.md section 3: no step makes a transfer but the one that ends the encode walk, and that
one hands over the whole of `OUT`. -/
def Obligations.TransferOnlyAtEndOfEncoding : Prop :=
  ∀ s s' : State, step s = .next s' →
    s'.requests = s.requests ∨
    (s.phase = .encode ∧ s.ops.length ≤ s.k ∧ s'.phase = .transfer ∧ s'.requests = s.requests ++ [s.out])

/-- 43_transaction_batcher.md R168: a failure of the primitive is propagated unchanged, with no results and no
second transfer: from an accepted TRANSACT whose transfer fails, the steps lead to exactly this. -/
def Obligations.PrimitiveFailureIsPropagated : Prop :=
  ∀ (s : State) (rest : List HostEvent) (ops : List Instr) (e : PrimitiveError) (more : List BusAnswer),
    Inv s → s.life = .usable → s.phase = .idle → s.host = .call (.transact (ops.map .ofInstr)) :: rest →
    SerialHost rest → s.bus = .failure e :: more → Fits s.maxTxnBytes ops →
    ∃ n t, Reaches n s t ∧ t.host = rest ∧ t.bus = more ∧
      t.requests = s.requests ++ [outbound s.cfg.hardwareAddress ops] ∧
      t.replies = s.replies ++ [.error (.transport (.primitiveFailure e))]

/-- 43_transaction_batcher.md section 6 (R179, decision D14) with 60_exceptions.md R201 and 10_state.md R39 (decision
D12): the failure ends the transaction at once, clears all transient state and leaves `LIFE` and `CFG` untouched. -/
def Obligations.PrimitiveFailureEndsTransaction : Prop :=
  ∀ (s t : State) (e : PrimitiveError) (more : List BusAnswer), CodecTurn s t → t.phase = .transfer →
    t.bus = .failure e :: more →
    step s = .next { t with
      bus := more, phase := .idle, ops := [], k := 0, off := 0, out := [], win := [], inb := [], res := []
      replies := t.replies ++ [.error (.transport (.primitiveFailure e))] }

/-- 43_transaction_batcher.md section 3 (R167, decision D11): an answer of another length, shorter or longer, ends
the transaction with a transport error and no results. -/
def Obligations.LengthMismatchEndsTransaction : Prop :=
  ∀ (s t : State) (inb : List Byte) (more : List BusAnswer), CodecTurn s t → t.phase = .transfer →
    t.bus = .sequence inb :: more → inb.length ≠ t.out.length →
    step s = .next { t with
      bus := more, phase := .idle, ops := [], k := 0, off := 0, out := [], win := [], inb := [], res := []
      replies := t.replies ++ [.error (.transport (.lengthMismatch t.out.length inb.length))] }

/-- 43_transaction_batcher.md section 6 (R178, decision D14): an answer of the right length starts the decode
walk. -/
def Obligations.MatchingAnswerStartsDecoding : Prop :=
  ∀ (s t : State) (inb : List Byte) (more : List BusAnswer), CodecTurn s t → t.phase = .transfer →
    t.bus = .sequence inb :: more → inb.length = t.out.length →
    step s = .next { t with bus := more, inb := inb, k := 0, phase := .decode }

/-- 43_transaction_batcher.md section 6 (R181, decision D14) with 10_state.md R39: the results are delivered and
nothing transient survives. -/
def Obligations.ResultsAreDelivered : Prop :=
  ∀ s t : State, CodecTurn s t → t.phase = .decode → t.k = t.ops.length →
    step s = .next { t with
      phase := .idle, ops := [], k := 0, off := 0, out := [], win := [], inb := [], res := []
      replies := t.replies ++ [.results t.res] }

/-- 70_reset_and_hazards.md section 3 (R240, decision D20): while the primitive does not answer, the codec waits in
TRANSFER without limit; every command that arrives is refused as `Busy`, one answer for each, and nothing else
changes. The `n` steps use up one event each until only a call that waits is left, and the commands that arrive are
the `overlap` events among them (the model's schedule and its count of steps, log entry 2, and its silent primitive,
log entry 3). That a CONSTRUCT among them is answered `Busy` is the model's reading (log entry 5). -/
def Obligations.WaitsForAnswerWithoutLimit : Prop :=
  ∀ (n : Nat) (s : State), Inv s → s.phase = .transfer → s.bus = [] →
    ∃ consumed left : List HostEvent, s.host = consumed ++ left ∧ (∀ c, .call c ∉ consumed) ∧
      (consumed.length = n ∨ (consumed.length < n ∧ (left = [] ∨ ∃ c rest, left = .call c :: rest))) ∧
      Reaches n s { s with
        host := left
        replies := s.replies ++ List.replicate (overlapping consumed).length (.refused .busy) }

/-- 43_transaction_batcher.md section 7 (R185): a transaction in flight ends in results for all its operations or in
one transport error, and until then the host is told nothing but `Busy`. That this is the answer to a CONSTRUCT too is
the model's reading (log entry 5); the phases are the spec's own decomposition (decision D14). -/
def Obligations.NoPartialOutcome : Prop :=
  ∀ s s' : State, Inv s → step s = .next s' → s.phase ≠ .idle →
    (s'.phase = .idle →
      (∃ rs, s'.replies = s.replies ++ [.results rs] ∧ rs.length = s.ops.length) ∨
      ∃ e, s'.replies = s.replies ++ [.error (.transport e)]) ∧
    (s'.phase ≠ .idle → s'.replies = s.replies ∨ s'.replies = s.replies ++ [.refused .busy])

/-! ### Windows and results -/

/-- 20_memory.md R54: the windows of a transaction, the same in `OUT` and in `IN`, partition its byte range; each
holds its operation's frame in `OUT` and gives its operation's result from `IN`. -/
def Obligations.WindowsPartitionTheByteRange : Prop :=
  ∀ (a : HwAddr) (ops : List Instr) (inb : List Byte), inb.length = (outbound a ops).length →
    (windowsFrom 0 ops).length = ops.length ∧
    (∀ (k : Nat) (op : Instr), ops[k]? = some op → ∃ w : Window, (windowsFrom 0 ops)[k]? = some w ∧
      w.length = 2 + op.payloadLength ∧
      (k = 0 → w.offset = 0) ∧
      (∀ w' : Window, (windowsFrom 0 ops)[k + 1]? = some w' → w'.offset = w.offset + w.length) ∧
      (k + 1 = ops.length → w.offset + w.length = (outbound a ops).length) ∧
      slice (outbound a ops) w.offset w.length = encode a op ∧
      (demux ops inb)[k]? = some (parse op (slice inb w.offset w.length))) ∧
    ∀ j, j < (outbound a ops).length →
      ∃ (k : Nat) (w : Window), (windowsFrom 0 ops)[k]? = some w ∧ w.offset ≤ j ∧ j < w.offset + w.length ∧
        ∀ (k' : Nat) (w' : Window), (windowsFrom 0 ops)[k']? = some w' → w'.offset ≤ j → j < w'.offset + w'.length → k' = k

/-- 43_transaction_batcher.md R161 and R162: the bytes that TRANSACT transmits, and the windows recorded in them. -/
def Obligations.EncodedTransactionIsConcatenation : Prop :=
  ∀ (s : State) (ops : List Instr) (answer : BusAnswer), ∃ out : List Byte,
    (transactAtomically ops answer s).requests = s.requests ++ [out] ∧
    out = (ops.map (encode s.cfg.hardwareAddress)).flatten ∧
    (windowsFrom 0 ops).length = ops.length ∧
    (∀ (k : Nat) (op : Instr), ops[k]? = some op → ∃ w : Window, (windowsFrom 0 ops)[k]? = some w ∧
      w.length = (encode s.cfg.hardwareAddress op).length ∧ w.length = 2 + op.payloadLength ∧
      (k = 0 → w.offset = 0) ∧
      (∀ w' : Window, (windowsFrom 0 ops)[k + 1]? = some w' → w'.offset = w.offset + w.length) ∧
      (k + 1 = ops.length → w.offset + w.length = out.length)) ∧
    out.length = 2 * ops.length + (ops.map Instr.payloadLength).sum

/-- 41_control_byte.md R137: every frame of a batch begins with a control byte, at its window's offset. -/
def Obligations.ControlByteAtEveryWindow : Prop :=
  ∀ (a : HwAddr) (ops : List Instr) (k : Nat) (op : Instr) (w : Window),
    ops[k]? = some op → (windowsFrom 0 ops)[k]? = some w →
    (outbound a ops)[w.offset]? = some (ctrl a op.rw)

/-- 43_transaction_batcher.md section 4 (R170, decision D17): one result per operation, in order; a WRITE
contributes `Absent`, a READ of `N` bytes contributes `N` bytes. -/
def Obligations.ResultsMatchOperations : Prop :=
  ∀ (a : HwAddr) (ops : List Instr) (inb : List Byte), inb.length = (outbound a ops).length →
    ∃ rs : List Result, transactReply a ops (.sequence inb) = .results rs ∧ rs.length = ops.length ∧
      (∀ (k : Nat) (r : RegAddr) (d : List Byte), ops[k]? = some (.write r d) → rs[k]? = some .absent) ∧
      ∀ (k : Nat) (r : RegAddr) (n : Nat), ops[k]? = some (.read r n) → ∃ b : List Byte, rs[k]? = some (.bytes b) ∧ b.length = n

/-- 43_transaction_batcher.md R173: every READ returns the bytes of its payload window unchanged, in submission
order, and depends on no other inbound byte. -/
def Obligations.ReadsReturnTheirPayloadWindow : Prop :=
  ∀ (a : HwAddr) (ops : List Instr) (inb inb' : List Byte),
    inb.length = (outbound a ops).length → inb'.length = (outbound a ops).length →
    ∃ rs rs' : List Result, transactReply a ops (.sequence inb) = .results rs ∧
      transactReply a ops (.sequence inb') = .results rs' ∧
      ∀ (k : Nat) (r : RegAddr) (n : Nat), ops[k]? = some (.read r n) →
        rs[k]? = some (.bytes (slice inb (totalLength (ops.take k) + 2) n)) ∧
        (slice inb (totalLength (ops.take k) + 2) n).length = n ∧
        (slice inb (totalLength (ops.take k) + 2) n = slice inb' (totalLength (ops.take k) + 2) n → rs'[k]? = rs[k]?)

/-- 30_encoding.md R93: header-window bytes and the bytes of a WRITE's slice influence no result and no error. -/
def Obligations.DontCareBytesInfluenceNothing : Prop :=
  ∀ (a : HwAddr) (ops : List Instr) (inb inb' : List Byte), inb.length = inb'.length →
    (∀ (k : Nat) (r : RegAddr) (n j : Nat), ops[k]? = some (.read r n) → j < n →
      inb[totalLength (ops.take k) + 2 + j]? = inb'[totalLength (ops.take k) + 2 + j]?) →
    transactReply a ops (.sequence inb) = transactReply a ops (.sequence inb')

/-- 43_transaction_batcher.md section 5 (R172, for any split by the spec's own inference): if the primitive answers
a batch with the concatenation of its answers to the parts, the batch's results are the concatenation of theirs. -/
def Obligations.BatchResultsAreConcatenation : Prop :=
  ∀ (a : HwAddr) (xs ys : List Instr) (ix iy : List Byte),
    ix.length = (outbound a xs).length → iy.length = (outbound a ys).length →
    ∃ rx ry, transactReply a xs (.sequence ix) = .results rx ∧ transactReply a ys (.sequence iy) = .results ry ∧
      transactReply a (xs ++ ys) (.sequence (ix ++ iy)) = .results (rx ++ ry)

/-- 43_transaction_batcher.md section 4 (R171, decision D6): the empty transaction makes one empty transfer; an
empty answer gives the empty result list, any other a length mismatch. -/
def Obligations.EmptyTransactionMakesOneTransfer : Prop :=
  ∀ (s : State) (rest : List HostEvent) (inb : List Byte) (more : List BusAnswer),
    s.host = .call (.transact []) :: rest → SerialHost rest → Inv s → s.life = .usable → s.phase = .idle →
    s.bus = .sequence inb :: more →
    ∃ n, Reaches n s { s with
      host := rest, bus := more, requests := s.requests ++ [[]]
      replies := s.replies ++
        [if inb = [] then .results [] else .error (.transport (.lengthMismatch 0 inb.length))] }

/-- 20_memory.md section 1 (R50, R51): element `i` of the outbound sequence is bus word `i`, its bit 7 first and its
bit 0 last. -/
def Obligations.WireOrderIsMostSignificantBitFirst : Prop :=
  ∀ out : List Byte, (wireSequence out).length = 8 * out.length ∧
    ∀ (i j : Nat) (b : Byte), out[i]? = some b → j < 8 →
      (wireSequence out)[8 * i + j]? = some (b.getLsbD (7 - j))

/-- 60_exceptions.md section 1 (R191 to R193, decision D9): the codes of the seven causes. -/
def Obligations.CauseCodes : Prop :=
  ∀ (v : Nat) (o : BitOrder) (e : PrimitiveError) (x y : Nat),
    (ConfigurationError.clockMode v).code = 1 ∧ (ConfigurationError.maxClockRate v).code = 2 ∧
    (ConfigurationError.bitOrder o).code = 3 ∧ (ConfigurationError.wordSize v).code = 4 ∧
    (ConfigurationWarning.extraFlags v).code = 5 ∧
    (TransportError.primitiveFailure e).code = 6 ∧ (TransportError.lengthMismatch x y).code = 7

/-! ### The whole machine -/

/-- 10_state.md section 6 and 70_reset_and_hazards.md section 1 (R45, R230, decision D13): the state before
CONSTRUCT, in which the codec waits for a command. -/
def Obligations.ResetWaitsForConstruct : Prop :=
  State.reset.life = .unconstructed ∧ State.reset.phase = .idle ∧ State.reset.ops = [] ∧ State.reset.out = [] ∧
  State.reset.win = [] ∧ State.reset.inb = [] ∧ State.reset.res = [] ∧ State.reset.k = 0 ∧ State.reset.off = 0 ∧
  Config.fixedBits = 0b0100#4 ∧ step State.reset = .next State.reset

/-- The bookkeeping invariant holds at reset. -/
def Obligations.ResetKeepsTheBooks : Prop := Inv State.reset

/-- Every step keeps the bookkeeping invariant (10_state.md sections 2 to 4), whatever arrives on the channels. -/
def Obligations.EveryStepKeepsTheBooks : Prop :=
  ∀ s s' : State, Inv s → step s = .next s' → Inv s'

/-- From a state that keeps the books no step ever stops: neither a fault nor a refusal is met. -/
def Obligations.NoStepStopsWhileBooksAreKept : Prop :=
  ∀ s : State, Inv s → ∃ s', step s = .next s'

/-- 10_state.md section 4 (R40, the spec's own inference): what the invariant says of the transient state. -/
def Obligations.BooksTieTransientStateTogether : Prop :=
  ∀ s : State, Inv s →
    (s.phase = .encode →
      s.win.length = s.k ∧ s.off = s.out.length ∧
      s.off = ((s.ops.take s.k).map fun o => 2 + o.payloadLength).sum ∧
      ∀ (j : Nat) (op : Instr), j < s.k → s.ops[j]? = some op →
        ∃ w : Window, s.win[j]? = some w ∧ w.offset = ((s.ops.take j).map fun o => 2 + o.payloadLength).sum ∧
          w.length = 2 + op.payloadLength ∧ slice s.out w.offset w.length = encode s.cfg.hardwareAddress op) ∧
    (s.phase = .transfer ∨ s.phase = .decode →
      s.out = (s.ops.map (encode s.cfg.hardwareAddress)).flatten ∧ s.win.length = s.ops.length ∧
      s.off = s.out.length) ∧
    (s.phase = .decode → s.inb.length = s.out.length ∧ s.res.length = s.k)

/-- 43_transaction_batcher.md section 6 (R182, the spec's own inference): from an accepted TRANSACT the micro-steps
end, and in exactly the outcome that the atomic command of R160 computes from the same answer: one transfer of the
concatenated frames, one reply, and nothing else changed. The bound on the number of steps counts the model's own
steps and says nothing of the hardware (log entry 2). -/
def Obligations.MicroStepsAgreeWithAtomicCommand : Prop :=
  ∀ (s : State) (rest : List HostEvent) (ops : List Instr) (answer : BusAnswer) (more : List BusAnswer),
    Inv s → s.life = .usable → s.phase = .idle → s.host = .call (.transact (ops.map .ofInstr)) :: rest →
    SerialHost rest → s.bus = answer :: more → Fits s.maxTxnBytes ops →
    ∃ n, n ≤ 2 * ops.length + 4 ∧ Reaches n s { s with
      host := rest
      bus := more
      requests := s.requests ++ [outbound s.cfg.hardwareAddress ops]
      replies := s.replies ++ [transactReply s.cfg.hardwareAddress ops answer] }

/-- 20_memory.md section 5 (R65): over a whole session of a serial host (log entries 2 and 3) the bus sees the transactions' outbound
sequences in submission order, each in its own transfer, and the host gets each transaction's own outcome in that
order, whatever the earlier ones ended in. -/
def Obligations.SessionKeepsSubmissionOrder : Prop :=
  ∀ (session : List (List Instr × BusAnswer)) (s : State) (more : List BusAnswer),
    Inv s → s.life = .usable → s.phase = .idle → s.host = sessionCalls session →
    s.bus = sessionAnswers session ++ more → (∀ t ∈ session, Fits s.maxTxnBytes t.1) →
    ∃ n, Reaches n s { s with
      host := []
      bus := more
      requests := s.requests ++ session.map (fun t => outbound s.cfg.hardwareAddress t.1)
      replies := s.replies ++ session.map (fun t => transactReply s.cfg.hardwareAddress t.1 t.2) }
end

