-- ==== Sys2Proof/Laws/Frames.lean ====
section
/-! SUPPORT. Frames, windows and slices: their lengths, and how they split over a list of operations. -/

namespace Sys2Proof.Machine

theorem length_readFrame (a : HwAddr) (r : RegAddr) (n : Nat) : (readFrame a r n).length = n + 2 := by
  simp [readFrame]

theorem length_writeFrame (a : HwAddr) (r : RegAddr) (d : List Byte) : (writeFrame a r d).length = d.length + 2 := by
  simp [writeFrame]

/-- The frame has the length that its window is recorded with. -/
theorem encode_length (a : HwAddr) (i : Instr) : (encode a i).length = i.frameLength := by
  cases i with
  | read r n => simp [encode, length_readFrame, Instr.frameLength, Instr.payloadLength, Config.headerLen, Nat.add_comm]
  | write r d => simp [encode, length_writeFrame, Instr.frameLength, Instr.payloadLength, Config.headerLen, Nat.add_comm]

@[simp] theorem outbound_nil (a : HwAddr) : outbound a [] = [] := rfl

@[simp] theorem outbound_cons (a : HwAddr) (i : Instr) (rest : List Instr) :
    outbound a (i :: rest) = encode a i ++ outbound a rest := rfl

theorem outbound_append (a : HwAddr) (xs ys : List Instr) :
    outbound a (xs ++ ys) = outbound a xs ++ outbound a ys := by
  simp [outbound]

@[simp] theorem totalLength_nil : totalLength [] = 0 := rfl

@[simp] theorem totalLength_cons (i : Instr) (rest : List Instr) :
    totalLength (i :: rest) = i.frameLength + totalLength rest := by
  simp [totalLength]

theorem totalLength_append (xs ys : List Instr) : totalLength (xs ++ ys) = totalLength xs + totalLength ys := by
  simp [totalLength]

theorem outbound_length (a : HwAddr) (ops : List Instr) : (outbound a ops).length = totalLength ops := by
  induction ops with
  | nil => rfl
  | cons i rest ih => simp [encode_length, ih]

@[simp] theorem windowsFrom_length (o : Nat) (ops : List Instr) : (windowsFrom o ops).length = ops.length := by
  induction ops generalizing o with
  | nil => rfl
  | cons i rest ih => simp [windowsFrom, ih]

theorem windowsFrom_append (o : Nat) (xs ys : List Instr) :
    windowsFrom o (xs ++ ys) = windowsFrom o xs ++ windowsFrom (o + totalLength xs) ys := by
  induction xs generalizing o with
  | nil => simp [windowsFrom]
  | cons i rest ih => simp [windowsFrom, ih, Nat.add_assoc]

/-- The window of the operation at index `k` begins where the frames before it end. -/
theorem windowsFrom_getElem? (o : Nat) (ops : List Instr) (k : Nat) :
    (windowsFrom o ops)[k]? = (ops[k]?).map fun i => ⟨o + totalLength (ops.take k), i.frameLength⟩ := by
  induction ops generalizing o k with
  | nil => rfl
  | cons i rest ih =>
    cases k with
    | zero => simp [windowsFrom]
    | succ k => simp [windowsFrom, ih, Nat.add_assoc]

theorem take_succ_of_getElem? {α : Type} {l : List α} {k : Nat} {x : α} (h : l[k]? = some x) :
    l.take (k + 1) = l.take k ++ [x] := by
  rw [List.take_add_one, h]; rfl

/-- Read after append: the appended frame stands where the sequence ended. -/
theorem slice_append_self (s f : List Byte) : slice (s ++ f) s.length f.length = f := by
  simp [slice]

/-- An append leaves every window inside the old sequence alone. -/
theorem slice_append_below {s : List Byte} (f : List Byte) {o n : Nat} (h : o + n ≤ s.length) :
    slice (s ++ f) o n = slice s o n := by
  rw [slice, slice, List.drop_append_of_le_length (by omega), List.take_append_of_le_length (by simp; omega)]

@[simp] theorem demux_length (ops : List Instr) (inb : List Byte) : (demux ops inb).length = ops.length := by
  simp [demux]

/-- The result at index `k` is extracted from the recorded window of the operation at index `k`. -/
theorem demux_getElem? (ops : List Instr) (inb : List Byte) (k : Nat) :
    (demux ops inb)[k]? = (ops[k]?).map fun i =>
      parse i (memRead inb ⟨totalLength (ops.take k), i.frameLength⟩) := by
  rw [demux, List.getElem?_zipWith, windowsFrom_getElem?]
  cases ops[k]? <;> simp

end Sys2Proof.Machine
end

