-- ==== Sys2Proof/Laws/Operands.lean ====
section
/-! SUPPORT. The readers of the untyped boundary agree with the well-formedness check, and a typed operation passes
both unchanged. -/

namespace Sys2Proof.Machine

theorem byte?_isSome (x : RawNum) : (byte? x).isSome = x.isByte := by
  cases x with
  | int z => by_cases h : 0 ≤ z ∧ z ≤ 255 <;> simp [byte?, RawNum.isByte, RawNum.upTo, h]
  | notInteger => rfl

theorem count?_isSome (x : RawNum) : (count? x).isSome = x.isNat := by
  cases x with
  | int z => by_cases h : 0 ≤ z <;> simp [count?, RawNum.isNat, h]
  | notInteger => rfl

theorem hwAddr?_isSome (x : RawNum) : (hwAddr? x).isSome = x.isHwAddr := by
  cases x with
  | int z => by_cases h : 0 ≤ z ∧ z ≤ 7 <;> simp [hwAddr?, RawNum.isHwAddr, RawNum.upTo, h]
  | notInteger => rfl

theorem bytes?_isSome (d : List RawNum) : (bytes? d).isSome = d.all RawNum.isByte := by
  induction d with
  | nil => rfl
  | cons x xs ih =>
    rw [List.all_cons, ← ih, ← byte?_isSome]
    cases hx : byte? x <;> cases hs : bytes? xs <;> simp [bytes?, hx, hs]

theorem byte?_toNat (b : Byte) : byte? (.int b.toNat) = some b := by
  have h := b.isLt
  have : (0 : Int) ≤ b.toNat ∧ (b.toNat : Int) ≤ 255 := by omega
  simp [byte?, this]

theorem hwAddr?_toNat (a : HwAddr) : hwAddr? (.int a.toNat) = some a := by
  have h := a.isLt
  have : (0 : Int) ≤ a.toNat ∧ (a.toNat : Int) ≤ 7 := by omega
  simp [hwAddr?, this]

theorem bytes?_toNat (d : List Byte) : bytes? (d.map fun b => .int b.toNat) = some d := by
  induction d with
  | nil => rfl
  | cons b bs ih => simp [bytes?, byte?_toNat, ih]

theorem instr?_ofInstr (i : Instr) : instr? (.ofInstr i) = some i := by
  cases i with
  | read r n => simp [RawOp.ofInstr, instr?, byte?_toNat, count?]
  | write r d => simp [RawOp.ofInstr, instr?, byte?_toNat, bytes?_toNat]

theorem badFields_eq_nil (op : RawOp) : badFields op = [] ↔ op.wellFormed = true := by
  cases op with
  | read r n =>
    cases hr : r.isByte <;> cases hn : n.isNat <;>
      simp [badFields, RawOp.wellFormed, byte?_isSome, count?_isSome, hr, hn]
  | write r d =>
    cases hr : r.isByte <;> cases hd : d.all RawNum.isByte <;>
      simp [badFields, RawOp.wellFormed, byte?_isSome, bytes?_isSome, hr, hd]

theorem instr?_isSome (op : RawOp) : (instr? op).isSome = op.wellFormed := by
  cases op with
  | read r n =>
    rw [RawOp.wellFormed, ← byte?_isSome, ← count?_isSome]
    cases hr : byte? r <;> cases hn : count? n <;> simp [instr?, hr, hn]
  | write r d =>
    rw [RawOp.wellFormed, ← byte?_isSome, ← bytes?_isSome]
    cases hr : byte? r <;> cases hd : bytes? d <;> simp [instr?, hr, hd]

theorem wellFormed_ofInstr (i : Instr) : (RawOp.ofInstr i).wellFormed = true := by
  rw [← instr?_isSome, instr?_ofInstr]; rfl

theorem violationsFrom_eq_nil (k : Nat) (raw : List RawOp) :
    violationsFrom k raw = [] ↔ ∀ op ∈ raw, op.wellFormed = true := by
  induction raw generalizing k with
  | nil => simp [violationsFrom]
  | cons op rest ih => simp [violationsFrom, ih, badFields_eq_nil]

theorem violationsFrom_ofInstr (k : Nat) (ops : List Instr) : violationsFrom k (ops.map .ofInstr) = [] := by
  rw [violationsFrom_eq_nil]
  intro op h
  obtain ⟨i, _, rfl⟩ := List.mem_map.1 h
  exact wellFormed_ofInstr i

theorem filterMap_ofInstr (ops : List Instr) : (ops.map RawOp.ofInstr).filterMap instr? = ops := by
  induction ops with
  | nil => rfl
  | cons i rest ih => simp [instr?_ofInstr, ih]

/-- The named violation is one of those there are, whatever is drawn. -/
theorem namedViolation_mem (draw : Nat) (v : Nat × OperandField) (vs : List (Nat × OperandField)) :
    namedViolation draw v vs ∈ v :: vs := by
  cases vs with
  | nil => simp [namedViolation]
  | cons w ws =>
    have h : Config.freeChoice draw % (v :: w :: ws).length < (v :: w :: ws).length := Nat.mod_lt _ (by simp)
    rw [namedViolation, List.getElem?_eq_getElem h]
    exact List.getElem_mem h

end Sys2Proof.Machine
end

