-- ==== Sys2Proof/Laws/PerInstr.lean ====
section
/-! SUPPORT. Statements about every instruction as syntax, one lemma per constructor. -/

namespace Sys2Proof.Laws.FrameHeader

/-- The frame of an instruction is its header, of two bytes, and a payload of its payload length (R80, R146). -/
def Statement (i : Instr) : Prop :=
  ∀ a : HwAddr, ∃ payload : List Byte,
    encode a i = ctrl a i.rw :: i.registerAddress :: payload ∧ payload.length = i.payloadLength

theorem read (r : RegAddr) (n : Nat) : Statement (.read r n) :=
  fun _ => ⟨List.replicate n Config.filler, rfl, List.length_replicate⟩

theorem write (r : RegAddr) (d : List Byte) : Statement (.write r d) := fun _ => ⟨d, rfl, rfl⟩

end Sys2Proof.Laws.FrameHeader
end

