-- ==== Sys2Proof/Laws/State.lean ====
section
/-! SUPPORT. One lemma per field per update, each true by rfl. -/

namespace Sys2Proof.Machine

variable (s : State)

/-! ### reply -/

@[simp] theorem reply_life (r : Reply) : (reply r s).life = s.life := rfl
@[simp] theorem reply_cfg (r : Reply) : (reply r s).cfg = s.cfg := rfl
@[simp] theorem reply_phase (r : Reply) : (reply r s).phase = s.phase := rfl
@[simp] theorem reply_ops (r : Reply) : (reply r s).ops = s.ops := rfl
@[simp] theorem reply_k (r : Reply) : (reply r s).k = s.k := rfl
@[simp] theorem reply_off (r : Reply) : (reply r s).off = s.off := rfl
@[simp] theorem reply_out (r : Reply) : (reply r s).out = s.out := rfl
@[simp] theorem reply_win (r : Reply) : (reply r s).win = s.win := rfl
@[simp] theorem reply_inb (r : Reply) : (reply r s).inb = s.inb := rfl
@[simp] theorem reply_res (r : Reply) : (reply r s).res = s.res := rfl
@[simp] theorem reply_maxTxnBytes (r : Reply) : (reply r s).maxTxnBytes = s.maxTxnBytes := rfl
@[simp] theorem reply_draws (r : Reply) : (reply r s).draws = s.draws := rfl
@[simp] theorem reply_host (r : Reply) : (reply r s).host = s.host := rfl
@[simp] theorem reply_bus (r : Reply) : (reply r s).bus = s.bus := rfl
@[simp] theorem reply_requests (r : Reply) : (reply r s).requests = s.requests := rfl
@[simp] theorem reply_replies (r : Reply) : (reply r s).replies = s.replies ++ [r] := rfl
@[simp] theorem reply_diag (r : Reply) : (reply r s).diag = s.diag := rfl

/-! ### warn -/

@[simp] theorem warn_life (w : ConfigurationWarning) : (warn w s).life = s.life := rfl
@[simp] theorem warn_cfg (w : ConfigurationWarning) : (warn w s).cfg = s.cfg := rfl
@[simp] theorem warn_phase (w : ConfigurationWarning) : (warn w s).phase = s.phase := rfl
@[simp] theorem warn_ops (w : ConfigurationWarning) : (warn w s).ops = s.ops := rfl
@[simp] theorem warn_k (w : ConfigurationWarning) : (warn w s).k = s.k := rfl
@[simp] theorem warn_off (w : ConfigurationWarning) : (warn w s).off = s.off := rfl
@[simp] theorem warn_out (w : ConfigurationWarning) : (warn w s).out = s.out := rfl
@[simp] theorem warn_win (w : ConfigurationWarning) : (warn w s).win = s.win := rfl
@[simp] theorem warn_inb (w : ConfigurationWarning) : (warn w s).inb = s.inb := rfl
@[simp] theorem warn_res (w : ConfigurationWarning) : (warn w s).res = s.res := rfl
@[simp] theorem warn_maxTxnBytes (w : ConfigurationWarning) : (warn w s).maxTxnBytes = s.maxTxnBytes := rfl
@[simp] theorem warn_draws (w : ConfigurationWarning) : (warn w s).draws = s.draws := rfl
@[simp] theorem warn_host (w : ConfigurationWarning) : (warn w s).host = s.host := rfl
@[simp] theorem warn_bus (w : ConfigurationWarning) : (warn w s).bus = s.bus := rfl
@[simp] theorem warn_requests (w : ConfigurationWarning) : (warn w s).requests = s.requests := rfl
@[simp] theorem warn_replies (w : ConfigurationWarning) : (warn w s).replies = s.replies := rfl
@[simp] theorem warn_diag (w : ConfigurationWarning) : (warn w s).diag = s.diag ++ [w] := rfl

/-! ### refuse -/

@[simp] theorem refuse_life (q : RefuseReason) : (refuse q s).life = s.life := rfl
@[simp] theorem refuse_cfg (q : RefuseReason) : (refuse q s).cfg = s.cfg := rfl
@[simp] theorem refuse_phase (q : RefuseReason) : (refuse q s).phase = s.phase := rfl
@[simp] theorem refuse_ops (q : RefuseReason) : (refuse q s).ops = s.ops := rfl
@[simp] theorem refuse_k (q : RefuseReason) : (refuse q s).k = s.k := rfl
@[simp] theorem refuse_off (q : RefuseReason) : (refuse q s).off = s.off := rfl
@[simp] theorem refuse_out (q : RefuseReason) : (refuse q s).out = s.out := rfl
@[simp] theorem refuse_win (q : RefuseReason) : (refuse q s).win = s.win := rfl
@[simp] theorem refuse_inb (q : RefuseReason) : (refuse q s).inb = s.inb := rfl
@[simp] theorem refuse_res (q : RefuseReason) : (refuse q s).res = s.res := rfl
@[simp] theorem refuse_maxTxnBytes (q : RefuseReason) : (refuse q s).maxTxnBytes = s.maxTxnBytes := rfl
@[simp] theorem refuse_draws (q : RefuseReason) : (refuse q s).draws = s.draws := rfl
@[simp] theorem refuse_host (q : RefuseReason) : (refuse q s).host = s.host := rfl
@[simp] theorem refuse_bus (q : RefuseReason) : (refuse q s).bus = s.bus := rfl
@[simp] theorem refuse_requests (q : RefuseReason) : (refuse q s).requests = s.requests := rfl
@[simp] theorem refuse_replies (q : RefuseReason) : (refuse q s).replies = s.replies ++ [.refused q] := rfl
@[simp] theorem refuse_diag (q : RefuseReason) : (refuse q s).diag = s.diag := rfl

/-! ### clearTransient -/

@[simp] theorem clearTransient_life : (clearTransient s).life = s.life := rfl
@[simp] theorem clearTransient_cfg : (clearTransient s).cfg = s.cfg := rfl
@[simp] theorem clearTransient_phase : (clearTransient s).phase = .idle := rfl
@[simp] theorem clearTransient_ops : (clearTransient s).ops = [] := rfl
@[simp] theorem clearTransient_k : (clearTransient s).k = 0 := rfl
@[simp] theorem clearTransient_off : (clearTransient s).off = 0 := rfl
@[simp] theorem clearTransient_out : (clearTransient s).out = [] := rfl
@[simp] theorem clearTransient_win : (clearTransient s).win = [] := rfl
@[simp] theorem clearTransient_inb : (clearTransient s).inb = [] := rfl
@[simp] theorem clearTransient_res : (clearTransient s).res = [] := rfl
@[simp] theorem clearTransient_maxTxnBytes : (clearTransient s).maxTxnBytes = s.maxTxnBytes := rfl
@[simp] theorem clearTransient_draws : (clearTransient s).draws = s.draws := rfl
@[simp] theorem clearTransient_host : (clearTransient s).host = s.host := rfl
@[simp] theorem clearTransient_bus : (clearTransient s).bus = s.bus := rfl
@[simp] theorem clearTransient_requests : (clearTransient s).requests = s.requests := rfl
@[simp] theorem clearTransient_replies : (clearTransient s).replies = s.replies := rfl
@[simp] theorem clearTransient_diag : (clearTransient s).diag = s.diag := rfl

/-! ### raise_configuration -/

@[simp] theorem raise_configuration_life (e : ConfigurationError) : (raise (.configuration e) s).life = .rejected := rfl
@[simp] theorem raise_configuration_cfg (e : ConfigurationError) : (raise (.configuration e) s).cfg = s.cfg := rfl
@[simp] theorem raise_configuration_phase (e : ConfigurationError) : (raise (.configuration e) s).phase = s.phase := rfl
@[simp] theorem raise_configuration_ops (e : ConfigurationError) : (raise (.configuration e) s).ops = s.ops := rfl
@[simp] theorem raise_configuration_k (e : ConfigurationError) : (raise (.configuration e) s).k = s.k := rfl
@[simp] theorem raise_configuration_off (e : ConfigurationError) : (raise (.configuration e) s).off = s.off := rfl
@[simp] theorem raise_configuration_out (e : ConfigurationError) : (raise (.configuration e) s).out = s.out := rfl
@[simp] theorem raise_configuration_win (e : ConfigurationError) : (raise (.configuration e) s).win = s.win := rfl
@[simp] theorem raise_configuration_inb (e : ConfigurationError) : (raise (.configuration e) s).inb = s.inb := rfl
@[simp] theorem raise_configuration_res (e : ConfigurationError) : (raise (.configuration e) s).res = s.res := rfl
@[simp] theorem raise_configuration_maxTxnBytes (e : ConfigurationError) : (raise (.configuration e) s).maxTxnBytes = s.maxTxnBytes := rfl
@[simp] theorem raise_configuration_draws (e : ConfigurationError) : (raise (.configuration e) s).draws = s.draws := rfl
@[simp] theorem raise_configuration_host (e : ConfigurationError) : (raise (.configuration e) s).host = s.host := rfl
@[simp] theorem raise_configuration_bus (e : ConfigurationError) : (raise (.configuration e) s).bus = s.bus := rfl
@[simp] theorem raise_configuration_requests (e : ConfigurationError) : (raise (.configuration e) s).requests = s.requests := rfl
@[simp] theorem raise_configuration_replies (e : ConfigurationError) : (raise (.configuration e) s).replies = s.replies ++ [.error (.configuration e)] := rfl
@[simp] theorem raise_configuration_diag (e : ConfigurationError) : (raise (.configuration e) s).diag = s.diag := rfl

/-! ### raise_transport -/

@[simp] theorem raise_transport_life (e : TransportError) : (raise (.transport e) s).life = s.life := rfl
@[simp] theorem raise_transport_cfg (e : TransportError) : (raise (.transport e) s).cfg = s.cfg := rfl
@[simp] theorem raise_transport_phase (e : TransportError) : (raise (.transport e) s).phase = .idle := rfl
@[simp] theorem raise_transport_ops (e : TransportError) : (raise (.transport e) s).ops = [] := rfl
@[simp] theorem raise_transport_k (e : TransportError) : (raise (.transport e) s).k = 0 := rfl
@[simp] theorem raise_transport_off (e : TransportError) : (raise (.transport e) s).off = 0 := rfl
@[simp] theorem raise_transport_out (e : TransportError) : (raise (.transport e) s).out = [] := rfl
@[simp] theorem raise_transport_win (e : TransportError) : (raise (.transport e) s).win = [] := rfl
@[simp] theorem raise_transport_inb (e : TransportError) : (raise (.transport e) s).inb = [] := rfl
@[simp] theorem raise_transport_res (e : TransportError) : (raise (.transport e) s).res = [] := rfl
@[simp] theorem raise_transport_maxTxnBytes (e : TransportError) : (raise (.transport e) s).maxTxnBytes = s.maxTxnBytes := rfl
@[simp] theorem raise_transport_draws (e : TransportError) : (raise (.transport e) s).draws = s.draws := rfl
@[simp] theorem raise_transport_host (e : TransportError) : (raise (.transport e) s).host = s.host := rfl
@[simp] theorem raise_transport_bus (e : TransportError) : (raise (.transport e) s).bus = s.bus := rfl
@[simp] theorem raise_transport_requests (e : TransportError) : (raise (.transport e) s).requests = s.requests := rfl
@[simp] theorem raise_transport_replies (e : TransportError) : (raise (.transport e) s).replies = s.replies ++ [.error (.transport e)] := rfl
@[simp] theorem raise_transport_diag (e : TransportError) : (raise (.transport e) s).diag = s.diag := rfl

/-! ### appendFrame -/

@[simp] theorem appendFrame_life (f : List Byte) : (appendFrame f s).life = s.life := rfl
@[simp] theorem appendFrame_cfg (f : List Byte) : (appendFrame f s).cfg = s.cfg := rfl
@[simp] theorem appendFrame_phase (f : List Byte) : (appendFrame f s).phase = s.phase := rfl
@[simp] theorem appendFrame_ops (f : List Byte) : (appendFrame f s).ops = s.ops := rfl
@[simp] theorem appendFrame_k (f : List Byte) : (appendFrame f s).k = s.k + 1 := rfl
@[simp] theorem appendFrame_off (f : List Byte) : (appendFrame f s).off = s.off + f.length := rfl
@[simp] theorem appendFrame_out (f : List Byte) : (appendFrame f s).out = s.out ++ f := rfl
@[simp] theorem appendFrame_win (f : List Byte) : (appendFrame f s).win = s.win ++ [⟨s.off, f.length⟩] := rfl
@[simp] theorem appendFrame_inb (f : List Byte) : (appendFrame f s).inb = s.inb := rfl
@[simp] theorem appendFrame_res (f : List Byte) : (appendFrame f s).res = s.res := rfl
@[simp] theorem appendFrame_maxTxnBytes (f : List Byte) : (appendFrame f s).maxTxnBytes = s.maxTxnBytes := rfl
@[simp] theorem appendFrame_draws (f : List Byte) : (appendFrame f s).draws = s.draws := rfl
@[simp] theorem appendFrame_host (f : List Byte) : (appendFrame f s).host = s.host := rfl
@[simp] theorem appendFrame_bus (f : List Byte) : (appendFrame f s).bus = s.bus := rfl
@[simp] theorem appendFrame_requests (f : List Byte) : (appendFrame f s).requests = s.requests := rfl
@[simp] theorem appendFrame_replies (f : List Byte) : (appendFrame f s).replies = s.replies := rfl
@[simp] theorem appendFrame_diag (f : List Byte) : (appendFrame f s).diag = s.diag := rfl

/-! ### appendResult -/

@[simp] theorem appendResult_life (r : Result) : (appendResult r s).life = s.life := rfl
@[simp] theorem appendResult_cfg (r : Result) : (appendResult r s).cfg = s.cfg := rfl
@[simp] theorem appendResult_phase (r : Result) : (appendResult r s).phase = s.phase := rfl
@[simp] theorem appendResult_ops (r : Result) : (appendResult r s).ops = s.ops := rfl
@[simp] theorem appendResult_k (r : Result) : (appendResult r s).k = s.k + 1 := rfl
@[simp] theorem appendResult_off (r : Result) : (appendResult r s).off = s.off := rfl
@[simp] theorem appendResult_out (r : Result) : (appendResult r s).out = s.out := rfl
@[simp] theorem appendResult_win (r : Result) : (appendResult r s).win = s.win := rfl
@[simp] theorem appendResult_inb (r : Result) : (appendResult r s).inb = s.inb := rfl
@[simp] theorem appendResult_res (r : Result) : (appendResult r s).res = s.res ++ [r] := rfl
@[simp] theorem appendResult_maxTxnBytes (r : Result) : (appendResult r s).maxTxnBytes = s.maxTxnBytes := rfl
@[simp] theorem appendResult_draws (r : Result) : (appendResult r s).draws = s.draws := rfl
@[simp] theorem appendResult_host (r : Result) : (appendResult r s).host = s.host := rfl
@[simp] theorem appendResult_bus (r : Result) : (appendResult r s).bus = s.bus := rfl
@[simp] theorem appendResult_requests (r : Result) : (appendResult r s).requests = s.requests := rfl
@[simp] theorem appendResult_replies (r : Result) : (appendResult r s).replies = s.replies := rfl
@[simp] theorem appendResult_diag (r : Result) : (appendResult r s).diag = s.diag := rfl

/-! ### capture -/

@[simp] theorem capture_life (a : HwAddr) (b : BusConfig) (h : Handles) : (capture a b h s).life = .usable := rfl
@[simp] theorem capture_cfg (a : HwAddr) (b : BusConfig) (h : Handles) : (capture a b h s).cfg = ⟨a, b, h⟩ := rfl
@[simp] theorem capture_phase (a : HwAddr) (b : BusConfig) (h : Handles) : (capture a b h s).phase = s.phase := rfl
@[simp] theorem capture_ops (a : HwAddr) (b : BusConfig) (h : Handles) : (capture a b h s).ops = s.ops := rfl
@[simp] theorem capture_k (a : HwAddr) (b : BusConfig) (h : Handles) : (capture a b h s).k = s.k := rfl
@[simp] theorem capture_off (a : HwAddr) (b : BusConfig) (h : Handles) : (capture a b h s).off = s.off := rfl
@[simp] theorem capture_out (a : HwAddr) (b : BusConfig) (h : Handles) : (capture a b h s).out = s.out := rfl
@[simp] theorem capture_win (a : HwAddr) (b : BusConfig) (h : Handles) : (capture a b h s).win = s.win := rfl
@[simp] theorem capture_inb (a : HwAddr) (b : BusConfig) (h : Handles) : (capture a b h s).inb = s.inb := rfl
@[simp] theorem capture_res (a : HwAddr) (b : BusConfig) (h : Handles) : (capture a b h s).res = s.res := rfl
@[simp] theorem capture_maxTxnBytes (a : HwAddr) (b : BusConfig) (h : Handles) : (capture a b h s).maxTxnBytes = s.maxTxnBytes := rfl
@[simp] theorem capture_draws (a : HwAddr) (b : BusConfig) (h : Handles) : (capture a b h s).draws = s.draws := rfl
@[simp] theorem capture_host (a : HwAddr) (b : BusConfig) (h : Handles) : (capture a b h s).host = s.host := rfl
@[simp] theorem capture_bus (a : HwAddr) (b : BusConfig) (h : Handles) : (capture a b h s).bus = s.bus := rfl
@[simp] theorem capture_requests (a : HwAddr) (b : BusConfig) (h : Handles) : (capture a b h s).requests = s.requests := rfl
@[simp] theorem capture_replies (a : HwAddr) (b : BusConfig) (h : Handles) : (capture a b h s).replies = s.replies := rfl
@[simp] theorem capture_diag (a : HwAddr) (b : BusConfig) (h : Handles) : (capture a b h s).diag = s.diag := rfl

/-! ### submit -/

@[simp] theorem submit_life (o : List Instr) : (submit o s).life = s.life := rfl
@[simp] theorem submit_cfg (o : List Instr) : (submit o s).cfg = s.cfg := rfl
@[simp] theorem submit_phase (o : List Instr) : (submit o s).phase = .encode := rfl
@[simp] theorem submit_ops (o : List Instr) : (submit o s).ops = o := rfl
@[simp] theorem submit_k (o : List Instr) : (submit o s).k = 0 := rfl
@[simp] theorem submit_off (o : List Instr) : (submit o s).off = 0 := rfl
@[simp] theorem submit_out (o : List Instr) : (submit o s).out = [] := rfl
@[simp] theorem submit_win (o : List Instr) : (submit o s).win = [] := rfl
@[simp] theorem submit_inb (o : List Instr) : (submit o s).inb = [] := rfl
@[simp] theorem submit_res (o : List Instr) : (submit o s).res = [] := rfl
@[simp] theorem submit_maxTxnBytes (o : List Instr) : (submit o s).maxTxnBytes = s.maxTxnBytes := rfl
@[simp] theorem submit_draws (o : List Instr) : (submit o s).draws = s.draws := rfl
@[simp] theorem submit_host (o : List Instr) : (submit o s).host = s.host := rfl
@[simp] theorem submit_bus (o : List Instr) : (submit o s).bus = s.bus := rfl
@[simp] theorem submit_requests (o : List Instr) : (submit o s).requests = s.requests := rfl
@[simp] theorem submit_replies (o : List Instr) : (submit o s).replies = s.replies := rfl
@[simp] theorem submit_diag (o : List Instr) : (submit o s).diag = s.diag := rfl

/-! ### encodeDone -/

@[simp] theorem encodeDone_life : (encodeDone s).life = s.life := rfl
@[simp] theorem encodeDone_cfg : (encodeDone s).cfg = s.cfg := rfl
@[simp] theorem encodeDone_phase : (encodeDone s).phase = .transfer := rfl
@[simp] theorem encodeDone_ops : (encodeDone s).ops = s.ops := rfl
@[simp] theorem encodeDone_k : (encodeDone s).k = s.k := rfl
@[simp] theorem encodeDone_off : (encodeDone s).off = s.off := rfl
@[simp] theorem encodeDone_out : (encodeDone s).out = s.out := rfl
@[simp] theorem encodeDone_win : (encodeDone s).win = s.win := rfl
@[simp] theorem encodeDone_inb : (encodeDone s).inb = s.inb := rfl
@[simp] theorem encodeDone_res : (encodeDone s).res = s.res := rfl
@[simp] theorem encodeDone_maxTxnBytes : (encodeDone s).maxTxnBytes = s.maxTxnBytes := rfl
@[simp] theorem encodeDone_draws : (encodeDone s).draws = s.draws := rfl
@[simp] theorem encodeDone_host : (encodeDone s).host = s.host := rfl
@[simp] theorem encodeDone_bus : (encodeDone s).bus = s.bus := rfl
@[simp] theorem encodeDone_requests : (encodeDone s).requests = s.requests ++ [s.out] := rfl
@[simp] theorem encodeDone_replies : (encodeDone s).replies = s.replies := rfl
@[simp] theorem encodeDone_diag : (encodeDone s).diag = s.diag := rfl

/-! ### decodeDone -/

@[simp] theorem decodeDone_life : (decodeDone s).life = s.life := rfl
@[simp] theorem decodeDone_cfg : (decodeDone s).cfg = s.cfg := rfl
@[simp] theorem decodeDone_phase : (decodeDone s).phase = .idle := rfl
@[simp] theorem decodeDone_ops : (decodeDone s).ops = [] := rfl
@[simp] theorem decodeDone_k : (decodeDone s).k = 0 := rfl
@[simp] theorem decodeDone_off : (decodeDone s).off = 0 := rfl
@[simp] theorem decodeDone_out : (decodeDone s).out = [] := rfl
@[simp] theorem decodeDone_win : (decodeDone s).win = [] := rfl
@[simp] theorem decodeDone_inb : (decodeDone s).inb = [] := rfl
@[simp] theorem decodeDone_res : (decodeDone s).res = [] := rfl
@[simp] theorem decodeDone_maxTxnBytes : (decodeDone s).maxTxnBytes = s.maxTxnBytes := rfl
@[simp] theorem decodeDone_draws : (decodeDone s).draws = s.draws := rfl
@[simp] theorem decodeDone_host : (decodeDone s).host = s.host := rfl
@[simp] theorem decodeDone_bus : (decodeDone s).bus = s.bus := rfl
@[simp] theorem decodeDone_requests : (decodeDone s).requests = s.requests := rfl
@[simp] theorem decodeDone_replies : (decodeDone s).replies = s.replies ++ [.results s.res] := rfl
@[simp] theorem decodeDone_diag : (decodeDone s).diag = s.diag := rfl

end Sys2Proof.Machine
end

