-- ==== Sys2Proof/Laws/Steps.lean ====
section
/-! SUPPORT. One lemma per shared operation and per agent that says once everything it can do. -/

namespace Sys2Proof.Machine

variable {s s' : State}

/-- An instruction is the shared operation over its frame and its extractor. -/
theorem exec_eq_operate (i : Instr) (s : State) :
    exec i s = operate (encode s.cfg.hardwareAddress i) (parse i) s := by
  cases i <;> rfl

theorem operate_encode (h : s.phase = .encode) (f : List Byte) (x : List Byte → Result) :
    operate f x s = .next (appendFrame f s) := by
  simp [operate, h]

theorem operate_decode (h : s.phase = .decode) {w : Window} (hw : s.win[s.k]? = some w) (f : List Byte)
    (x : List Byte → Result) : operate f x s = .next (appendResult (x (memRead s.inb w)) s) := by
  simp [operate, h, hw]

/-- Everything the execution of an operation can do when it completes. -/
theorem operate_next {f : List Byte} {x : List Byte → Result} (h : operate f x s = .next s') :
    (s.phase = .encode ∧ s' = appendFrame f s) ∨
      (s.phase = .decode ∧ ∃ w, s.win[s.k]? = some w ∧ s' = appendResult (x (memRead s.inb w)) s) := by
  cases hp : s.phase with
  | idle => simp [operate, hp] at h
  | transfer => simp [operate, hp] at h
  | encode => rw [operate_encode hp] at h; exact .inl ⟨rfl, (Host.Outcome.next.inj h).symm⟩
  | decode =>
    cases hw : s.win[s.k]? with
    | none => simp [operate, hp, hw] at h
    | some w => rw [operate_decode hp hw] at h; exact .inr ⟨rfl, w, rfl, (Host.Outcome.next.inj h).symm⟩

theorem checkBus_eq_none (b : BusConfig) : checkBus b = none ↔ LegalBus b := by
  rw [LegalBus, ← Nat.not_lt]
  by_cases h1 : b.clockMode = 0 ∨ b.clockMode = 3 <;> by_cases h2 : 10000000 < b.maxClockHz <;>
    by_cases h3 : b.bitOrder = .msbFirst <;> by_cases h4 : b.wordSize = 8 <;>
    simp [checkBus, Config.clockModesOk, Config.maxClockHz, Config.bitOrderOk, Config.wordSizeOk, -Nat.not_lt, *]

theorem checkBus_names {b : BusConfig} {e : ConfigurationError} (h : checkBus b = some e) : NamesViolation b e := by
  by_cases h1 : b.clockMode = 0 ∨ b.clockMode = 3
  · by_cases h2 : 10000000 < b.maxClockHz
    · obtain rfl : ConfigurationError.maxClockRate b.maxClockHz = e := by
        simpa [checkBus, Config.clockModesOk, Config.maxClockHz, h1, h2] using h
      exact h2
    · by_cases h3 : b.bitOrder = .msbFirst
      · by_cases h4 : b.wordSize = 8
        · simp [(checkBus_eq_none b).2 ⟨h1, Nat.not_lt.1 h2, h3, h4⟩] at h
        · obtain rfl : ConfigurationError.wordSize b.wordSize = e := by
            simpa [checkBus, Config.clockModesOk, Config.maxClockHz, Config.bitOrderOk, Config.wordSizeOk, *] using h
          exact h4
      · obtain rfl : ConfigurationError.bitOrder b.bitOrder = e := by
          simpa [checkBus, Config.clockModesOk, Config.maxClockHz, Config.bitOrderOk, *] using h
        exact h3
  · obtain rfl : ConfigurationError.clockMode b.clockMode = e := by
      simpa [checkBus, Config.clockModesOk, h1] using h
    simpa [NamesViolation] using h1

/-- Everything CONSTRUCT can do. -/
theorem execConstruct_cases (hw : RawNum) (b : BusConfig) (h : Handles) (s : State) :
    (s.phase ≠ .idle ∧ execConstruct hw b h s = refuse .busy s) ∨
    (s.phase = .idle ∧ s.life ≠ .unconstructed ∧ execConstruct hw b h s = refuse .alreadyConstructed s) ∨
    (s.phase = .idle ∧ s.life = .unconstructed ∧ hw.isHwAddr = false ∧
      execConstruct hw b h s = refuse .hardwareAddressRange s) ∨
    (s.phase = .idle ∧ s.life = .unconstructed ∧ ∃ a e, hwAddr? hw = some a ∧ checkBus b = some e ∧
      execConstruct hw b h s = raise (.configuration e) s) ∨
    (s.phase = .idle ∧ s.life = .unconstructed ∧ ∃ a, hwAddr? hw = some a ∧ LegalBus b ∧
      execConstruct hw b h s = reply .constructed (capture a b h (warnExtraFlags b s))) := by
  by_cases hp : s.phase = .idle
  · by_cases hl : s.life = .unconstructed
    · cases ha : hwAddr? hw with
      | none =>
        refine .inr (.inr (.inl ⟨hp, hl, ?_, by simp [execConstruct, hp, hl, ha]⟩))
        rw [← hwAddr?_isSome, ha]; rfl
      | some a =>
        cases hb : checkBus b with
        | some e => exact .inr (.inr (.inr (.inl ⟨hp, hl, a, e, rfl, rfl, by simp [execConstruct, hp, hl, ha, hb]⟩)))
        | none =>
          exact .inr (.inr (.inr (.inr ⟨hp, hl, a, rfl, (checkBus_eq_none b).1 hb,
            by simp [execConstruct, hp, hl, ha, hb]⟩)))
    · exact .inr (.inl ⟨hp, hl, by simp [execConstruct, hp, hl]⟩)
  · exact .inl ⟨hp, by simp [execConstruct, hp]⟩

/-- Everything the offer of TRANSACT can do. -/
theorem execTransact_cases (raw : List RawOp) (s : State) :
    (s.life ≠ .usable ∧ execTransact raw s = refuse .notUsable s) ∨
    (s.life = .usable ∧ s.phase ≠ .idle ∧ execTransact raw s = refuse .busy s) ∨
    (s.life = .usable ∧ s.phase = .idle ∧ ∃ v vs, violationsFrom 0 raw = v :: vs ∧
      execTransact raw s = refuse (.operandRange (namedViolation s.draws v vs).1 (namedViolation s.draws v vs).2)
        { s with draws := s.draws + 1 }) ∨
    (s.life = .usable ∧ s.phase = .idle ∧ violationsFrom 0 raw = [] ∧
      tooLong s.maxTxnBytes (totalLength (raw.filterMap instr?)) = true ∧
      execTransact raw s = refuse (.transactionTooLong (totalLength (raw.filterMap instr?))) s) ∨
    (s.life = .usable ∧ s.phase = .idle ∧ violationsFrom 0 raw = [] ∧
      tooLong s.maxTxnBytes (totalLength (raw.filterMap instr?)) = false ∧
      execTransact raw s = submit (raw.filterMap instr?) s) := by
  by_cases hl : s.life = .usable
  · by_cases hp : s.phase = .idle
    · cases hv : violationsFrom 0 raw with
      | cons v vs => exact .inr (.inr (.inl ⟨hl, hp, v, vs, rfl, by simp [execTransact, hp, hl, hv]⟩))
      | nil =>
        cases ht : tooLong s.maxTxnBytes (totalLength (raw.filterMap instr?)) with
        | true => exact .inr (.inr (.inr (.inl ⟨hl, hp, rfl, rfl, by simp [execTransact, hp, hl, hv, ht]⟩)))
        | false => exact .inr (.inr (.inr (.inr ⟨hl, hp, rfl, rfl, by simp [execTransact, hp, hl, hv, ht]⟩)))
    · exact .inr (.inl ⟨hl, hp, by simp [execTransact, hp, hl]⟩)
  · exact .inl ⟨hl, by simp [execTransact, hl]⟩

/-- A transaction of typed operations is read back as those operations, and is never ill formed. -/
theorem execTransact_typed (ops : List Instr) (hl : s.life = .usable) (hp : s.phase = .idle)
    (ht : tooLong s.maxTxnBytes (totalLength ops) = false) : execTransact (ops.map .ofInstr) s = submit ops s := by
  simp only [execTransact, hl, hp, violationsFrom_ofInstr, filterMap_ofInstr, ht]
  rfl

/-- Everything that can happen in phase TRANSFER. -/
theorem awaitAnswer_cases (s : State) :
    (s.bus = [] ∧ awaitAnswer s = s) ∨
    (∃ inb rest, s.bus = .sequence inb :: rest ∧ inb.length = s.out.length ∧
      awaitAnswer s = { s with bus := rest, inb := inb, k := 0, phase := .decode }) ∨
    (∃ inb rest, s.bus = .sequence inb :: rest ∧ inb.length ≠ s.out.length ∧
      awaitAnswer s = raise (.transport (.lengthMismatch s.out.length inb.length)) { s with bus := rest }) ∨
    (∃ e rest, s.bus = .failure e :: rest ∧
      awaitAnswer s = raise (.transport (.primitiveFailure e)) { s with bus := rest }) := by
  cases hb : s.bus with
  | nil => exact .inl ⟨rfl, by simp [awaitAnswer, hb]⟩
  | cons x rest =>
    cases x with
    | failure e => exact .inr (.inr (.inr ⟨e, rest, rfl, by simp [awaitAnswer, hb, transferFail]⟩))
    | sequence inb =>
      by_cases h : inb.length = s.out.length
      · exact .inr (.inl ⟨inb, rest, rfl, h, by simp [awaitAnswer, hb, transferReturn, h]⟩)
      · exact .inr (.inr (.inl ⟨inb, rest, rfl, h, by simp [awaitAnswer, hb, transferReturn, h]⟩))

/-- Everything the codec's own step can do when it completes. -/
theorem codecStep_cases (h : codecStep s = .next s') :
    (s.phase = .idle ∧ s' = s) ∨
    (s.phase = .encode ∧ fetch? s = none ∧ s' = encodeDone s) ∨
    (s.phase = .transfer ∧ s' = awaitAnswer s) ∨
    (s.phase = .decode ∧ fetch? s = none ∧ s' = decodeDone s) ∨
    ((s.phase = .encode ∨ s.phase = .decode) ∧ ∃ i, fetch? s = some i ∧ exec i s = .next s') := by
  cases hp : s.phase with
  | idle => simp [codecStep, hp] at h; simp [h]
  | transfer => simp [codecStep, hp] at h; simp [h]
  | encode =>
    cases hf : fetch? s with
    | none => simp [codecStep, hp, hf] at h; simp [h]
    | some i => simp [codecStep, hp, hf] at h; simp [h]
  | decode =>
    cases hf : fetch? s with
    | none => simp [codecStep, hp, hf] at h; simp [h]
    | some i => simp [codecStep, hp, hf] at h; simp [h]

theorem step_arrives {c : Command} {rest : List HostEvent} (h : Arrives c rest s) :
    step s = .next (submitCommand c { s with host := rest }) := by
  rcases h with h | ⟨h, hp⟩ <;> simp [step, systemStep, *]

theorem step_waits (h : hostWaits s = true) : step s = codecStep s := by
  cases hh : s.host with
  | nil => simp [step, systemStep, hh]
  | cons e rest =>
    cases e with
    | call c =>
      have hp : s.phase ≠ .idle := by simpa [hostWaits, hh] using h
      simp [step, systemStep, hh, hp]
    | overlap c => simp [hostWaits, hh] at h
    | quiet => simp [hostWaits, hh] at h

theorem step_quiet {rest : List HostEvent} (h : s.host = .quiet :: rest) :
    step s = codecStep { s with host := rest } := by
  simp [step, systemStep, h]

/-- Whose turn it is: a command arrives, or the codec takes its own step. -/
theorem step_turn (s : State) :
    (∃ c rest, Arrives c rest s ∧ step s = .next (submitCommand c { s with host := rest })) ∨
    (hostWaits s = true ∧ step s = codecStep s) ∨
    (∃ rest, s.host = .quiet :: rest ∧ step s = codecStep { s with host := rest }) := by
  cases hh : s.host with
  | nil => exact .inr (.inl ⟨by simp [hostWaits, hh], step_waits (by simp [hostWaits, hh])⟩)
  | cons e rest =>
    cases e with
    | quiet => exact .inr (.inr ⟨rest, rfl, step_quiet hh⟩)
    | overlap c => exact .inl ⟨c, rest, .inl hh, step_arrives (.inl hh)⟩
    | call c =>
      by_cases hp : s.phase = .idle
      · exact .inl ⟨c, rest, .inr ⟨hh, hp⟩, step_arrives (.inr ⟨hh, hp⟩)⟩
      · have : hostWaits s = true := by simpa [hostWaits, hh] using hp
        exact .inr (.inl ⟨this, step_waits this⟩)

theorem Reaches.zero (s : State) : Reaches 0 s s := rfl

/-- One step, then `n`. -/
theorem Reaches.cons {t u : State} {n : Nat} (h : step s = .next t) (r : Reaches n t u) : Reaches (n + 1) s u := by
  have h' : Sys2Proof.core.step s = .next t := h
  simp only [Reaches, Host.Core.run, h']
  exact r

/-- `m` steps, then `n`. -/
theorem Reaches.trans {t u : State} {m n : Nat} (h : Reaches m s t) (r : Reaches n t u) : Reaches (m + n) s u := by
  induction m generalizing s with
  | zero => cases Host.Outcome.next.inj h; simpa using r
  | succ m ih =>
    cases hs : step s with
    | next v =>
      have h' : Sys2Proof.core.step s = .next v := hs
      rw [Nat.succ_add]
      refine Reaches.cons hs (ih ?_)
      simpa only [Reaches, Host.Core.run, h'] using h
    | fault f =>
      have h' : Sys2Proof.core.step s = .fault f := hs
      simp only [Reaches, Host.Core.run, h'] at h
      cases h
    | refused f =>
      have h' : Sys2Proof.core.step s = .refused f := hs
      simp only [Reaches, Host.Core.run, h'] at h
      cases h

end Sys2Proof.Machine
end

