-- ==== Sys2Proof/Machine/Text.lean ====
section
/-! DEFINITION. The spec's own spelling of operations and transactions (spec/30_encoding.md R94, decision D18):
`READ reg, n`, `WRITE reg, [b0, b1, ...]`, `TRANSACT [op0; op1; ...]`. Bytes are written in hexadecimal and counts in
decimal, as in spec/95_test_vectors.md. Nothing else of the model reads this file. -/

namespace Sys2Proof.Machine

/-- One hexadecimal digit, upper case. -/
def hexDigit (v : BitVec 4) : Char := Nat.digitChar v.toNat |>.toUpper

/-- A byte as `0x` and two hexadecimal digits. -/
def hexByte (b : Byte) : List Char := ['0', 'x', hexDigit (b.extractLsb' 4 4), hexDigit (b.extractLsb' 0 4)]

/-- A list with a separator between its elements. -/
def separated (sep : List Char) : List (List Char) → List Char
  | [] => []
  | [x] => x
  | x :: y :: rest => x ++ sep ++ separated sep (y :: rest)

/-- R94: an operation. -/
def operationText : Instr → List Char
  | .read r n => "READ ".toList ++ hexByte r ++ ", ".toList ++ Nat.toDigits 10 n
  | .write r d => "WRITE ".toList ++ hexByte r ++ ", [".toList ++ separated ", ".toList (d.map hexByte) ++ [']']

/-- R94: a transaction, semicolon-separated (conflict C10). -/
def transactionText (ops : List Instr) : List Char :=
  "TRANSACT [".toList ++ separated "; ".toList (ops.map operationText) ++ [']']

end Sys2Proof.Machine
end

