-- ==== Sys2Proof/Tests/Slice0.lean ====
section
/-! SUPPORT. Tests, with expected values from spec/95_test_vectors.md or written out by hand from the rules, and a
witness for the hypotheses of every statement. -/

namespace Sys2Proof.Tests

open Sys2Proof.Machine

/-! ### Well-formedness: an ill-formed term for each check -/

theorem test_wf_register_too_large : (RawOp.read (.int 256) (.int 1)).wellFormed = false := by decide
theorem test_wf_register_negative : (RawOp.write (.int (-1)) []).wellFormed = false := by decide
theorem test_wf_register_not_integer : (RawOp.write .notInteger []).wellFormed = false := by decide
theorem test_wf_count_negative : (RawOp.read (.int 0) (.int (-1))).wellFormed = false := by decide
theorem test_wf_count_not_integer : (RawOp.read (.int 0) .notInteger).wellFormed = false := by decide
theorem test_wf_data_byte_too_large : (RawOp.write (.int 0) [.int 255, .int 256]).wellFormed = false := by decide
theorem test_wf_hardware_address_eight : (RawNum.int 8).isHwAddr = false := by decide
theorem test_wf_boundary_accepted :
    (RawOp.read (.int 255) (.int 0)).wellFormed = true ∧ (RawOp.write (.int 0) [.int 255, .int 0]).wellFormed = true ∧
    (RawNum.int 7).isHwAddr = true := by decide

/-! ### Decoding: control bytes written out bit by bit (R81), frames of T3 and T4 -/

theorem test_decode_read : decodeFrame .codecOutput [0b0100_101_1#8, 0xFF#8, 0xFF#8, 0xFF#8, 0xFF#8, 0xFF#8] =
    .ok ⟨5#3, .read 0xFF#8 4⟩ := by decide
theorem test_decode_write : decodeFrame .codecOutput [0b0100_001_0#8, 0x80#8, 0x00#8, 0xFF#8, 0x55#8, 0xAA#8] =
    .ok ⟨1#3, .write 0x80#8 [0x00#8, 0xFF#8, 0x55#8, 0xAA#8]⟩ := by decide
theorem test_decode_register_equal_to_control : decodeFrame .codecOutput [0b0100_011_1#8, 0x47#8, 0xFF#8] =
    .ok ⟨3#3, .read 0x47#8 1⟩ := by decide
theorem test_decode_other_family : decodeFrame .codecOutput [0x50#8, 0x00#8] = .error (.notThisFamily 0x50#8) := by
  decide
theorem test_opcode_rows_disjoint : ∀ c : Byte, opcodeTable.Pairwise fun x y => ¬ (x.covers c ∧ y.covers c) := by decide
/-- P3: a batch of every corner. -/
theorem test_outbound_of_batch : outbound 7#3 [.write 0x0A#8 [], .read 0#8 0, .write 0x14#8 [1#8, 2#8, 3#8], .read 0x13#8 3] =
    [0x4E#8, 0x0A#8, 0x4F#8, 0x00#8, 0x4E#8, 0x14#8, 1#8, 2#8, 3#8, 0x4F#8, 0x13#8, 0xFF#8, 0xFF#8, 0xFF#8] := by decide
/-- T6, second row. -/
theorem test_windows_of_batch : windowsFrom 0 [.write 0x0A#8 [], .read 0#8 0, .write 0x14#8 [1#8, 2#8, 3#8], .read 0x13#8 3] =
    [⟨0, 2⟩, ⟨2, 2⟩, ⟨4, 5⟩, ⟨9, 5⟩] := by decide
/-- R94's spelling of the batch of T7. -/
theorem test_text : transactionText [.write 0#8 [0xFF#8], .read 0x09#8 1] =
    "TRANSACT [WRITE 0x00, [0xFF]; READ 0x09, 1]".toList := by decide

/-! ### Small states -/

/-- A legal bus (T8, first row). -/
def bus0 : BusConfig := { clockMode := 0, maxClockHz := 10000000, bitOrder := .msbFirst, wordSize := 8, extraFlags := 0 }

def handles0 : Handles := { busHandle := 1, resetLine := 2, intaLine := 3, intbLine := 4, notifySink := 5 }

/-- The batch of T7. -/
def batch : List Instr := [.write 0#8 [0xFF#8], .read 0x09#8 1]

/-- `(USABLE, IDLE, 2)`. -/
def idle2 : State := { State.reset with life := .usable, cfg := ⟨2#3, bus0, handles0⟩ }

/-- The encode walk of the batch, at its first operation. -/
def encode2 : State := submit batch idle2

/-- The batch encoded, with the cursor at the end. -/
def encoded2 : State := { encode2 with
  k := 2, off := 6, win := [⟨0, 3⟩, ⟨3, 3⟩], out := [0x44#8, 0x00#8, 0xFF#8, 0x45#8, 0x09#8, 0xFF#8] }

/-- The transfer outstanding. -/
def transfer2 : State := encodeDone encoded2

/-- The decode walk, at its first operation, on the answer of T7. -/
def decode2 : State := { transfer2 with
  phase := .decode, k := 0, inb := [0x11#8, 0x22#8, 0x33#8, 0x44#8, 0x55#8, 0xAB#8] }

/-- The decode walk, done. -/
def decoded2 : State := { decode2 with k := 2, res := [.absent, .bytes [0xAB#8]] }

/-- The next state, if the step gave one. -/
def nextOf : Host.Outcome State Fault Refusal → Option State
  | .next s => some s
  | .fault _ => none
  | .refused _ => none

/-- The commands and answers used below. -/
def construct (b : BusConfig) : Command := .construct (.int 2) b handles0
def transact (ops : List Instr) : Command := .transact (ops.map .ofInstr)

/-! ### One step of each instruction and command -/

/-- P1, first encode step. -/
theorem test_write_encodes : (nextOf (exec (.write 0#8 [0xFF#8]) encode2)).map (fun s => (s.out, s.win, s.off, s.k)) =
    some ([0x44#8, 0x00#8, 0xFF#8], [⟨0, 3⟩], 3, 1) := by decide
/-- P1, first decode step. -/
theorem test_write_decodes : (nextOf (exec (.write 0#8 [0xFF#8]) decode2)).map (fun s => (s.res, s.k)) =
    some ([.absent], 1) := by decide
/-- T3, row 1. -/
theorem test_read_encodes : (nextOf (exec (.read 0x09#8 1) encode2)).map (fun s => (s.out, s.win, s.off, s.k)) =
    some ([0x45#8, 0x09#8, 0xFF#8], [⟨0, 3⟩], 3, 1) := by decide
/-- P1, second decode step: the last byte of the second window. -/
theorem test_read_decodes : (nextOf (exec (.read 0x09#8 1) { decode2 with k := 1 })).map (fun s => (s.res, s.k)) =
    some ([.bytes [0xAB#8]], 2) := by decide
/-- A placed table word runs as the first instruction after reset: READ on hardware address 2. -/
theorem test_placed_word_runs : (nextOf (step (State.reset.withFetchWord 8 0x45))).map State.out =
    some [0x45#8, 0x00#8] := by decide
/-- T8, rows 11 and 12: a warning on success, the first error and no warning on failure. -/
theorem test_construct_warns :
    (nextOf (step { State.reset with host := [.call (construct { bus0 with extraFlags := 4 })] })).map
      (fun s => (s.life, s.replies, s.diag)) = some (.usable, [.constructed], [.extraFlags 4]) := by decide
theorem test_construct_reports_first :
    (nextOf (step { State.reset with host := [.call (construct ⟨1, 20000000, .lsbFirst, 16, 4⟩)] })).map
      (fun s => (s.life, s.replies, s.diag)) =
    some (.rejected, [.error (.configuration (.clockMode 1))], []) := by decide
/-- T9, rows 9 and 10. -/
theorem test_transact_names_operand :
    (nextOf (step { idle2 with host := [.call (.transact [.write (.int 0) [.int 255], .read (.int 0x100) (.int 1)])] })).map
      (fun s => (s.phase, s.replies, s.requests)) =
    some (.idle, [.refused (.operandRange 1 .registerAddress)], []) := by decide
theorem test_transact_too_long :
    (nextOf (step { idle2 with maxTxnBytes := some 5, host := [.call (transact batch)] })).map
      (fun s => (s.phase, s.replies, s.requests)) = some (.idle, [.refused (.transactionTooLong 6)], []) := by decide
/-- T9, row 2. -/
theorem test_short_answer :
    (nextOf (step { transfer2 with bus := [.sequence [0#8, 0#8, 0#8, 0#8, 0#8]] })).map
      (fun s => (s.phase, s.life, s.out, s.replies)) =
    some (.idle, .usable, [], [.error (.transport (.lengthMismatch 6 5))]) := by decide
/-- T11: both answers of the vector. -/
theorem test_dont_care_bytes :
    demux [.read 9#8 1, .write 10#8 [0x3C#8], .read 9#8 1] [0#8, 0#8, 0x0F#8, 0#8, 0#8, 0#8, 0#8, 0#8, 0xF0#8] =
      [.bytes [0x0F#8], .absent, .bytes [0xF0#8]] ∧
    demux [.read 9#8 1, .write 10#8 [0x3C#8], .read 9#8 1]
        [0xAA#8, 0xBB#8, 0x0F#8, 0xCC#8, 0xDD#8, 0xEE#8, 0x12#8, 0x34#8, 0xF0#8] =
      [.bytes [0x0F#8], .absent, .bytes [0xF0#8]] := by decide

/-! ### Witnesses: a concrete state and operands that meet all hypotheses of a statement together -/

theorem framed_encoded2 : Framed batch encoded2 := ⟨by decide, by decide, by decide⟩

theorem inv_idle2 : Inv idle2 where
  idle := fun _ => by decide
  gated := by decide
  legal := by decide
  fits := fun _ h => by cases h
  encoding := fun h => by cases h
  transferring := fun h => by cases h
  decoding := fun h => by cases h

theorem inv_encode2 : Inv encode2 where
  idle := fun h => by cases h
  gated := by decide
  legal := by decide
  fits := fun _ h => by cases h
  encoding := fun _ => ⟨by decide, ⟨by decide, by decide, by decide⟩, rfl, rfl⟩
  transferring := fun h => by cases h
  decoding := fun h => by cases h

theorem inv_transfer2 : Inv transfer2 where
  idle := fun h => by cases h
  gated := by decide
  legal := by decide
  fits := fun _ h => by cases h
  encoding := fun h => by cases h
  transferring := fun _ => ⟨⟨by decide, by decide, by decide⟩, rfl, rfl, by decide⟩
  decoding := fun h => by cases h

theorem inv_decoded2 : Inv decoded2 where
  idle := fun h => by cases h
  gated := by decide
  legal := by decide
  fits := fun _ h => by cases h
  encoding := fun h => by cases h
  transferring := fun h => by cases h
  decoding := fun _ => ⟨by decide, ⟨by decide, by decide, by decide⟩, by decide, by decide⟩

theorem codecTurn_of_empty {s : State} (h : s.host = []) : CodecTurn s s := .inl ⟨by simp [hostWaits, h], rfl⟩

theorem witness_ControlByteRecoversInputs : ctrl 2#3 1#1 = ctrl 2#3 1#1 := rfl
theorem witness_ReadPayloadIsFiller : 2 ≤ 2 ∧ 2 ≤ 1 + 1 := by decide
theorem witness_EncodeOfDecodeIsTheFrame : decodeFrame .codecOutput [0x45#8, 0x09#8, 0xFF#8] = .ok ⟨2#3, .read 9#8 1⟩ := by
  decide
theorem witness_DecoderRejectsByName_short : [0x45#8].length < 2 := by decide
theorem witness_DecoderRejectsByName_below : (0x3F#8).toNat < 0x40 := by decide
theorem witness_DecoderRejectsByName_above : 0x4F < (0x50#8).toNat := by decide
theorem witness_DecoderRejectsByName_filler : ∃ x ∈ [0xFF#8, 0xFE#8], x ≠ 0xFF#8 := by decide
theorem witness_ReadOperation : [0#8, 0#8].length = 2 + 0 ∧ [0#8, 0#8, 0xAB#8].length = 2 + 1 := by decide
theorem witness_ReadInEachWalk_encode : encode2.phase = .encode := by decide
theorem witness_ReadInEachWalk_decode : decode2.phase = .decode ∧ decode2.win[decode2.k]? = some ⟨0, 3⟩ ∧
    (slice decode2.inb 0 3).length = 2 + 1 := by decide
theorem witness_WriteInEachWalk_encode : encode2.phase = .encode := by decide
theorem witness_WriteInEachWalk_decode : decode2.phase = .decode ∧ decode2.win[decode2.k]? = some ⟨0, 3⟩ := by decide
theorem witness_OperationChangesOnlyItsWalk_encode :
    exec (.read 9#8 1) encode2 = .next (appendFrame [0x45#8, 0x09#8, 0xFF#8] encode2) ∧ encode2.phase = .encode ∧
    (3 : Nat) ≤ 3 := ⟨rfl, rfl, by decide⟩
theorem witness_OperationChangesOnlyItsWalk_decode :
    exec (.read 9#8 1) decode2 = .next (appendResult (.bytes [0x33#8]) decode2) ∧ decode2.phase = .decode := ⟨rfl, rfl⟩
theorem witness_OperationCompletesExactlyInItsWalks :
    idle2.phase = .idle ∧ transfer2.phase = .transfer ∧ ({ decode2 with win := [] } : State).phase = .decode ∧
    ({ decode2 with win := [] } : State).win.length ≤ decode2.k := by decide
theorem witness_EveryFrameCarriesItsHeader :
    batch[1]? = some (.read 9#8 1) ∧ (windowsFrom 0 batch)[1]? = some ⟨3, 3⟩ := by decide
theorem witness_ResultLengthIsPayloadLength : [0x77#8, 0x88#8].length = 2 + 0 := by decide
theorem witness_SkipTwoAgreesWithLastN : [0xDE#8, 0xAD#8, 0x34#8, 0x56#8].length = 2 + 2 := by decide
theorem witness_StepRunsOperationAtCursor_encode : CodecTurn encode2 encode2 ∧ encode2.phase = .encode ∧
    encode2.ops[encode2.k]? = some (.write 0#8 [0xFF#8]) := ⟨codecTurn_of_empty rfl, by decide, by decide⟩
theorem witness_StepRunsOperationAtCursor_decode_quiet :
    CodecTurn { decode2 with k := 1, host := [.quiet] } { decode2 with k := 1 } ∧ decode2.phase = .decode ∧
    decode2.ops[1]? = some (.read 9#8 1) := ⟨.inr ⟨[], rfl, rfl⟩, by decide, by decide⟩
theorem witness_PlacedWordRunsNext : decodeTableWord 8 0x41 = some (.read 0#8 0) ∧ decodeTableWord 8 0x4E = some (.write 0#8 []) := by
  decide

/-- An unconstructed codec to which a CONSTRUCT arrives. -/
def asked (b : BusConfig) : State := { State.reset with host := [.call (construct b)] }

theorem arrives_asked (b : BusConfig) : Arrives (construct b) [] (asked b) := .inr ⟨rfl, rfl⟩

theorem witness_ConstructCapturesConfiguration :
    Arrives (.construct (.int (2#3).toNat) bus0 handles0) [] (asked bus0) ∧ (asked bus0).phase = .idle ∧
    (asked bus0).life = .unconstructed ∧ LegalBus bus0 := ⟨arrives_asked bus0, by decide, by decide, by decide⟩
theorem witness_ConfigurationErrorNamesViolatedParameter :
    Arrives (construct ⟨1, 0, .msbFirst, 8, 0⟩) [] (asked ⟨1, 0, .msbFirst, 8, 0⟩) ∧
    (asked ⟨1, 0, .msbFirst, 8, 0⟩).phase = .idle ∧ (asked ⟨1, 0, .msbFirst, 8, 0⟩).life = .unconstructed ∧
    (RawNum.int 2).isHwAddr = true ∧ ¬ LegalBus ⟨1, 0, .msbFirst, 8, 0⟩ ∧ LegalBus bus0 :=
  ⟨arrives_asked _, by decide, by decide, by decide, by decide, by decide⟩
/-- The four clauses at their boundaries: clock mode 4, rate 10000001, least-significant-bit-first, word size 9. -/
theorem witness_FirstViolationIsReported :
    (∀ b, Arrives (construct b) [] (asked b) ∧ (asked b).phase = .idle ∧ (asked b).life = .unconstructed) ∧
    (RawNum.int 2).isHwAddr = true ∧ ((4 : Nat) ≠ 0 ∧ (4 : Nat) ≠ 3) ∧ (((3 : Nat) = 0 ∨ (3 : Nat) = 3) ∧ 10000000 < 10000001) ∧
    (((0 : Nat) = 0 ∨ (0 : Nat) = 3) ∧ 10000000 ≤ 10000000 ∧ BitOrder.lsbFirst ≠ .msbFirst) ∧
    (((0 : Nat) = 0 ∨ (0 : Nat) = 3) ∧ 10000000 ≤ 10000000 ∧ BitOrder.msbFirst = .msbFirst ∧ (9 : Nat) ≠ 8) ∧
    LegalBus bus0 :=
  ⟨fun b => ⟨arrives_asked b, rfl, rfl⟩, by decide⟩
theorem witness_ConstructRefusals_again :
    Arrives (construct bus0) [] { idle2 with host := [.call (construct bus0)] } ∧ idle2.phase = .idle ∧
    idle2.life ≠ .unconstructed := ⟨.inr ⟨rfl, rfl⟩, by decide, by decide⟩
theorem witness_ConstructRefusals_range :
    Arrives (.construct (.int 8) bus0 handles0) [] { State.reset with host := [.overlap (.construct (.int 8) bus0 handles0)] } ∧
    State.reset.phase = .idle ∧ State.reset.life = .unconstructed ∧ (RawNum.int 8).isHwAddr = false :=
  ⟨.inl rfl, by decide, by decide, by decide⟩
theorem witness_CapturedConfigurationIsImmutable :
    step encode2 = .next (appendFrame [0x44#8, 0x00#8, 0xFF#8] encode2) ∧ encode2.life = .usable := ⟨rfl, rfl⟩
theorem witness_LifecycleMovesOnlyByConstruct :
    ∃ s', step (asked bus0) = .next s' ∧ s'.life ≠ (asked bus0).life ∧ s'.cfg ≠ (asked bus0).cfg :=
  ⟨_, rfl, by decide, by decide⟩
theorem witness_WellFormedOperationsAreTheTypedOnes : (RawOp.read (.int 255) (.int 0)).wellFormed = true := by decide

/-- A usable idle codec to which a TRANSACT arrives. -/
def offered (raw : List RawOp) : State := { idle2 with host := [.call (.transact raw)] }

theorem arrives_offered (raw : List RawOp) : Arrives (.transact raw) [] (offered raw) := .inr ⟨rfl, rfl⟩

theorem witness_AcceptedTransactionIsCaptured :
    Arrives (.transact (batch.map .ofInstr)) [] (offered (batch.map .ofInstr)) ∧
    (offered (batch.map .ofInstr)).life = .usable ∧ (offered (batch.map .ofInstr)).phase = .idle ∧
    Fits (offered (batch.map .ofInstr)).maxTxnBytes batch := ⟨arrives_offered _, by decide, by decide, fun _ h => by cases h⟩
theorem witness_IllFormedOperationRefusesTransaction :
    Arrives (.transact [.read (.int 256) (.int 1)]) [] (offered [.read (.int 256) (.int 1)]) ∧ idle2.life = .usable ∧
    idle2.phase = .idle ∧ ∃ op ∈ [RawOp.read (.int 256) (.int 1)], op.wellFormed = false :=
  ⟨arrives_offered _, by decide, by decide, by decide⟩
theorem witness_TransactRefusalOrder_notUsable :
    Arrives (transact batch) [] { State.reset with host := [.call (transact batch)] } ∧ State.reset.life ≠ .usable :=
  ⟨.inr ⟨rfl, rfl⟩, by decide⟩
theorem witness_TransactRefusalOrder_busy :
    Arrives (transact batch) [] { transfer2 with host := [.overlap (transact batch)] } ∧ transfer2.life = .usable ∧
    transfer2.phase ≠ .idle := ⟨.inl rfl, by decide, by decide⟩
/-- `MAX_TXN_BYTES = 5` and six bytes (T9, row 10). -/
theorem witness_TransactRefusalOrder_tooLong :
    Arrives (transact batch) [] { offered (batch.map .ofInstr) with maxTxnBytes := some 5 } ∧
    (offered (batch.map .ofInstr)).life = .usable ∧ (offered (batch.map .ofInstr)).phase = .idle ∧
    5 < totalLength batch := ⟨.inr ⟨rfl, rfl⟩, by decide, by decide, by decide⟩
theorem witness_CommandInFlightIsBusy :
    ({ encode2 with host := [.overlap (construct bus0)] } : State).host = .overlap (construct bus0) :: [] ∧
    encode2.phase ≠ .idle ∧ encode2.life = .usable := ⟨rfl, by decide, by decide⟩
theorem witness_EncodedTransactionIsRequestedOnce :
    CodecTurn encoded2 encoded2 ∧ encoded2.phase = .encode ∧ encoded2.k = encoded2.ops.length :=
  ⟨codecTurn_of_empty rfl, by decide, by decide⟩
theorem witness_TransferOnlyAtEndOfEncoding : step encoded2 = .next transfer2 := rfl
theorem witness_PrimitiveFailureEndsTransaction :
    CodecTurn { transfer2 with bus := [.failure 7] } { transfer2 with bus := [.failure 7] } ∧
    transfer2.phase = .transfer := ⟨codecTurn_of_empty rfl, by decide⟩
theorem witness_LengthMismatchEndsTransaction :
    CodecTurn { transfer2 with bus := [.sequence []] } { transfer2 with bus := [.sequence []] } ∧
    transfer2.phase = .transfer ∧ ([] : List Byte).length ≠ transfer2.out.length :=
  ⟨codecTurn_of_empty rfl, by decide, by decide⟩
theorem witness_MatchingAnswerStartsDecoding :
    CodecTurn { transfer2 with bus := [.sequence decode2.inb] } { transfer2 with bus := [.sequence decode2.inb] } ∧
    transfer2.phase = .transfer ∧ decode2.inb.length = transfer2.out.length :=
  ⟨codecTurn_of_empty rfl, by decide, by decide⟩
theorem witness_ResultsAreDelivered :
    CodecTurn decoded2 decoded2 ∧ decoded2.phase = .decode ∧ decoded2.k = decoded2.ops.length :=
  ⟨codecTurn_of_empty rfl, by decide, by decide⟩
/-- A CONSTRUCT and a TRANSACT arrive around a quiet step while the primitive is silent, and a further call waits. -/
theorem witness_WaitsForAnswerWithoutLimit :
    Inv { transfer2 with host := [.overlap (construct bus0), .quiet, .overlap (transact batch), .call (transact batch)] } ∧
    transfer2.phase = .transfer ∧ transfer2.bus = [] ∧
    (overlapping [.overlap (construct bus0), .quiet, .overlap (transact batch)]).length = 2 :=
  ⟨{ inv_transfer2 with
      encoding := fun h => by cases h
      transferring := fun _ => ⟨⟨by decide, by decide, by decide⟩, rfl, rfl, by decide⟩
      decoding := fun h => by cases h }, by decide, by decide, by decide⟩
theorem witness_NoPartialOutcome_ends :
    Inv decoded2 ∧ ∃ s', step decoded2 = .next s' ∧ decoded2.phase ≠ .idle ∧ s'.phase = .idle :=
  ⟨inv_decoded2, _, rfl, by decide, by decide⟩
theorem witness_NoPartialOutcome_goes_on :
    Inv encode2 ∧ ∃ s', step encode2 = .next s' ∧ encode2.phase ≠ .idle ∧ s'.phase ≠ .idle :=
  ⟨inv_encode2, _, rfl, by decide, by decide⟩
theorem witness_WindowsPartitionTheByteRange :
    decode2.inb.length = (outbound 2#3 batch).length ∧ batch[1]? = some (.read 9#8 1) ∧ 1 + 1 = batch.length ∧
    5 < (outbound 2#3 batch).length := by decide
theorem witness_EncodedTransactionIsConcatenation :
    batch[0]? = some (.write 0#8 [0xFF#8]) ∧ (windowsFrom 0 batch)[0 + 1]? = some ⟨3, 3⟩ ∧
    batch[1]? = some (.read 9#8 1) ∧ 1 + 1 = batch.length := by decide
theorem witness_ControlByteAtEveryWindow :
    batch[1]? = some (.read 9#8 1) ∧ (windowsFrom 0 batch)[1]? = some ⟨3, 3⟩ := by decide
theorem witness_ResultsMatchOperations :
    decode2.inb.length = (outbound 2#3 batch).length ∧ batch[0]? = some (.write 0#8 [0xFF#8]) ∧
    batch[1]? = some (.read 9#8 1) := by decide
theorem witness_ReadsReturnTheirPayloadWindow :
    decode2.inb.length = (outbound 2#3 batch).length ∧
    [0#8, 0#8, 0#8, 0#8, 0#8, 0xAB#8].length = (outbound 2#3 batch).length ∧ batch[1]? = some (.read 9#8 1) ∧
    slice decode2.inb (totalLength (batch.take 1) + 2) 1 = slice [0#8, 0#8, 0#8, 0#8, 0#8, 0xAB#8] (totalLength (batch.take 1) + 2) 1 := by
  decide
/-- Two answers that differ in every byte but the one payload byte of the READ. -/
theorem witness_DontCareBytesInfluenceNothing :
    decode2.inb.length = [0#8, 0#8, 0#8, 0#8, 0#8, 0xAB#8].length ∧
    ∀ (k : Nat) (r : RegAddr) (n j : Nat), batch[k]? = some (.read r n) → j < n →
      decode2.inb[totalLength (batch.take k) + 2 + j]? = [0#8, 0#8, 0#8, 0#8, 0#8, 0xAB#8][totalLength (batch.take k) + 2 + j]? := by
  refine ⟨by decide, fun k r n j hk hj => ?_⟩
  match k, hk with
  | 0, hk => cases hk
  | 1, hk =>
    cases hk
    obtain rfl : j = 0 := by omega
    decide
  | k + 2, hk => simp [batch] at hk
theorem witness_BatchResultsAreConcatenation :
    [0x11#8, 0x22#8, 0x33#8].length = (outbound 2#3 [.write 0#8 [0xFF#8]]).length ∧
    [0x44#8, 0x55#8, 0xAB#8].length = (outbound 2#3 [.read 9#8 1]).length := by decide

theorem inv_with_channels {s : State} (h : Inv s) (hp : s.phase = .idle) (host : List HostEvent) (bus : List BusAnswer) :
    Inv { s with host := host, bus := bus } where
  idle := h.idle
  gated := h.gated
  legal := h.legal
  fits := h.fits
  encoding := fun h => by rw [hp] at h; cases h
  transferring := fun h => by rw [hp] at h; cases h
  decoding := fun h => by rw [hp] at h; cases h

theorem witness_EmptyTransactionMakesOneTransfer :
    ({ idle2 with host := [.call (.transact [])], bus := [.sequence [0#8]] } : State).host = .call (.transact []) :: [] ∧
    SerialHost [] ∧ Inv { idle2 with host := [.call (.transact [])], bus := [.sequence [0#8]] } ∧
    idle2.life = .usable ∧ idle2.phase = .idle :=
  ⟨rfl, (fun _ h => by cases h), inv_with_channels inv_idle2 rfl _ _, by decide, by decide⟩
theorem witness_WireOrderIsMostSignificantBitFirst : [0x44#8, 0x80#8][1]? = some 0x80#8 ∧ 7 < 8 := by decide
theorem witness_EveryStepKeepsTheBooks : Inv encode2 ∧ ∃ s', step encode2 = .next s' := ⟨inv_encode2, _, rfl⟩
theorem witness_NoStepStopsWhileBooksAreKept : Inv transfer2 := inv_transfer2
theorem witness_BooksTieTransientStateTogether :
    (Inv encode2 ∧ encode2.phase = .encode) ∧ (Inv transfer2 ∧ transfer2.phase = .transfer) ∧
    (Inv decoded2 ∧ decoded2.phase = .decode) :=
  ⟨⟨inv_encode2, by decide⟩, ⟨inv_transfer2, by decide⟩, inv_decoded2, by decide⟩
theorem witness_MicroStepsAgreeWithAtomicCommand :
    Inv { idle2 with host := [.call (transact batch), .call (construct bus0)], bus := [.sequence decode2.inb] } ∧
    idle2.life = .usable ∧ idle2.phase = .idle ∧ SerialHost [.call (construct bus0)] ∧ Fits idle2.maxTxnBytes batch :=
  ⟨inv_with_channels inv_idle2 rfl _ _, by decide, by decide,
    fun e h => ⟨construct bus0, by simpa using h⟩, fun _ h => by cases h⟩
theorem witness_PrimitiveFailureIsPropagated :
    Inv { idle2 with host := [.call (transact batch)], bus := [.failure 7] } ∧ idle2.life = .usable ∧
    idle2.phase = .idle ∧ SerialHost [] ∧ Fits idle2.maxTxnBytes batch :=
  ⟨inv_with_channels inv_idle2 rfl _ _, by decide, by decide, (fun _ h => by cases h), fun _ h => by cases h⟩
/-- A session of two transactions, the first of which fails. -/
theorem witness_SessionKeepsSubmissionOrder :
    Inv { idle2 with
      host := sessionCalls [(batch, .failure 7), ([], .sequence [])]
      bus := sessionAnswers [(batch, .failure 7), ([], .sequence [])] ++ [] } ∧
    idle2.life = .usable ∧ idle2.phase = .idle ∧
    ∀ t ∈ [(batch, BusAnswer.failure 7), ([], .sequence [])], Fits idle2.maxTxnBytes t.1 :=
  ⟨inv_with_channels inv_idle2 rfl _ _, by decide, by decide, fun _ _ _ h => by cases h⟩

end Sys2Proof.Tests
end

section
/-! The configuration of the codec: every step leaves `LIFE` and `CFG` alone, except the one that constructs. -/

namespace Sys2Proof.Machine

variable {s s' : State}

/-- R116: the diagnostic channel is all that the warning touches. -/
theorem warnExtraFlags_eq (b : BusConfig) (s : State) :
    warnExtraFlags b s = { s with
      diag := s.diag ++ if b.extraFlags = 0 then [] else [.extraFlags b.extraFlags] } := by
  by_cases h : b.extraFlags = 0 <;> simp [warnExtraFlags, h, warn]

theorem exec_keeps_config {i : Instr} (h : exec i s = .next s') : s'.life = s.life ∧ s'.cfg = s.cfg := by
  rw [exec_eq_operate] at h
  obtain ⟨-, rfl⟩ | ⟨-, w, -, rfl⟩ := operate_next h
  · exact ⟨rfl, rfl⟩
  · exact ⟨rfl, rfl⟩

theorem awaitAnswer_keeps_config (s : State) : (awaitAnswer s).life = s.life ∧ (awaitAnswer s).cfg = s.cfg := by
  obtain ⟨-, h⟩ | ⟨_, _, -, -, h⟩ | ⟨_, _, -, -, h⟩ | ⟨_, _, -, h⟩ := awaitAnswer_cases s <;> simp [h]

theorem codecStep_keeps_config (h : codecStep s = .next s') : s'.life = s.life ∧ s'.cfg = s.cfg := by
  obtain ⟨-, rfl⟩ | ⟨-, -, rfl⟩ | ⟨-, rfl⟩ | ⟨-, -, rfl⟩ | ⟨-, i, -, hi⟩ := codecStep_cases h
  · exact ⟨rfl, rfl⟩
  · exact ⟨rfl, rfl⟩
  · exact awaitAnswer_keeps_config s
  · exact ⟨rfl, rfl⟩
  · exact exec_keeps_config hi

theorem execTransact_keeps_config (raw : List RawOp) (s : State) :
    (execTransact raw s).life = s.life ∧ (execTransact raw s).cfg = s.cfg := by
  obtain ⟨-, h⟩ | ⟨-, -, h⟩ | ⟨-, -, _, _, -, h⟩ | ⟨-, -, -, -, h⟩ | ⟨-, -, -, -, h⟩ := execTransact_cases raw s <;>
    simp [h]

/-- The configuration of `s'` is that of `s` after a CONSTRUCT that read the bus configuration `b`: captured when `b`
is legal, unwritten on a rejected codec when it is not (R118, R200). -/
def Constructed (b : BusConfig) (s s' : State) : Prop :=
  s.life = .unconstructed ∧ s.phase = .idle ∧
    ((LegalBus b ∧ s'.life = .usable) ∨ (¬ LegalBus b ∧ s'.life = .rejected ∧ s'.cfg = s.cfg))

theorem execConstruct_config (hw : RawNum) (b : BusConfig) (hd : Handles) (s : State) :
    ((execConstruct hw b hd s).life = s.life ∧ (execConstruct hw b hd s).cfg = s.cfg) ∨
      Constructed b s (execConstruct hw b hd s) := by
  obtain ⟨-, h⟩ | ⟨-, -, h⟩ | ⟨-, -, -, h⟩ | ⟨hp, hl, _, e, -, he, h⟩ | ⟨hp, hl, _, -, hb, h⟩ :=
    execConstruct_cases hw b hd s <;> rw [h]
  · exact .inl ⟨rfl, rfl⟩
  · exact .inl ⟨rfl, rfl⟩
  · exact .inl ⟨rfl, rfl⟩
  · have illegal : ¬ LegalBus b := by simp [← checkBus_eq_none, he]
    exact .inr ⟨hl, hp, .inr ⟨illegal, rfl, rfl⟩⟩
  · exact .inr ⟨hl, hp, .inl ⟨hb, rfl⟩⟩

/-- All that a step can do to `LIFE` and `CFG`. -/
theorem step_config (h : step s = .next s') :
    (s'.life = s.life ∧ s'.cfg = s.cfg) ∨
      ∃ hw b hd rest, Arrives (.construct hw b hd) rest s ∧ Constructed b s s' := by
  obtain ⟨c, rest, ha, hs⟩ | ⟨-, hs⟩ | ⟨rest, -, hs⟩ := step_turn s <;> rw [hs] at h
  · cases h
    cases c with
    | construct hw b hd =>
      exact (execConstruct_config hw b hd { s with host := rest }).imp id fun hc => ⟨hw, b, hd, rest, ha, hc⟩
    | transact raw => exact .inl (execTransact_keeps_config raw { s with host := rest })
  · exact .inl (codecStep_keeps_config h)
  · exact .inl (codecStep_keeps_config (s := { s with host := rest }) h)

/-- Settles O28: a step that moves the configuration starts from an unconstructed codec, and one that writes `CFG`
makes it usable. -/
theorem capturedConfigurationIsImmutable : Obligations.CapturedConfigurationIsImmutable := by
  intro s s' h
  obtain ⟨hl, hc⟩ | ⟨_, b, _, _, -, hl, -, ⟨-, hu⟩ | ⟨-, -, hc⟩⟩ := step_config h
  · exact ⟨fun hu => ⟨hl.trans hu, hc⟩, fun hne => absurd hc hne⟩
  · exact ⟨fun hu' => by simp [hl] at hu', fun _ => ⟨hl, hu⟩⟩
  · exact ⟨fun hu' => by simp [hl] at hu', fun hne => absurd hc hne⟩

/-- Settles O29: of the cases of `step_config` only the CONSTRUCT moves `LIFE`. -/
theorem lifecycleMovesOnlyByConstruct : Obligations.LifecycleMovesOnlyByConstruct := by
  intro s s' h hne
  obtain ⟨hl, -⟩ | ⟨hw, b, hd, rest, ha, hl, hp, hb⟩ := step_config h
  · exact absurd hl hne
  · exact ⟨hl, hp, hw, b, hd, rest, ha, hb.imp id fun ⟨illegal, hr, _⟩ => ⟨illegal, hr⟩⟩

end Sys2Proof.Machine
end

section
/-! The bookkeeping invariant: what each operation of the machine does to it, and that every step keeps it. -/

namespace Sys2Proof.Machine

variable {s s' : State}

/-! ### States that hold no transaction, and fields the invariant does not read -/

/-- An idle state holds no transaction, so only its configuration is left to judge. -/
theorem Inv.of_idle (hp : s.phase = .idle)
    (cleared : s.ops = [] ∧ s.k = 0 ∧ s.off = 0 ∧ s.out = [] ∧ s.win = [] ∧ s.inb = [] ∧ s.res = [])
    (legal : s.life = .usable → LegalBus s.cfg.bus) : Inv s where
  idle := fun _ => cleared
  gated := fun h => absurd hp h
  legal := legal
  fits := fun m _ => by simp [cleared.1]
  encoding := fun h => by simp [hp] at h
  transferring := fun h => by simp [hp] at h
  decoding := fun h => by simp [hp] at h

theorem Framed.with_channels {done : List Instr} (f : Framed done s) (draws : Nat) (host : List HostEvent)
    (bus : List BusAnswer) (replies : List Reply) (diag : List ConfigurationWarning) :
    Framed done { s with draws := draws, host := host, bus := bus, replies := replies, diag := diag } :=
  ⟨f.windows, f.frames, f.offset⟩

/-- The invariant reads neither the counter of free choices nor a channel other than the requests. -/
theorem Inv.with_channels (h : Inv s) (draws : Nat) (host : List HostEvent) (bus : List BusAnswer)
    (replies : List Reply) (diag : List ConfigurationWarning) :
    Inv { s with draws := draws, host := host, bus := bus, replies := replies, diag := diag } where
  idle := h.idle
  gated := h.gated
  legal := h.legal
  fits := h.fits
  encoding := fun hp => (h.encoding hp).imp id (.imp (·.with_channels ..) id)
  transferring := fun hp => (h.transferring hp).imp (·.with_channels ..) id
  decoding := fun hp => (h.decoding hp).imp id (.imp (·.with_channels ..) id)

theorem inv_reply (h : Inv s) (r : Reply) : Inv (reply r s) := h.with_channels ..

theorem inv_refuse (h : Inv s) (q : RefuseReason) : Inv (refuse q s) := inv_reply h _

theorem inv_clearTransient (h : Inv s) : Inv (clearTransient s) :=
  .of_idle rfl ⟨rfl, rfl, rfl, rfl, rfl, rfl, rfl⟩ h.legal

/-! ### The host's commands -/

theorem inv_raise_configuration (h : Inv s) (hp : s.phase = .idle) (e : ConfigurationError) :
    Inv (raise (.configuration e) s) :=
  .of_idle hp (h.idle hp) nofun

theorem inv_warnExtraFlags (h : Inv s) (b : BusConfig) : Inv (warnExtraFlags b s) := by
  rw [warnExtraFlags_eq]
  exact h.with_channels ..

theorem inv_capture (h : Inv s) (hp : s.phase = .idle) {b : BusConfig} (hb : LegalBus b) (a : HwAddr) (hd : Handles) :
    Inv (capture a b hd s) :=
  .of_idle hp (h.idle hp) fun _ => hb

theorem inv_execConstruct (h : Inv s) (hw : RawNum) (b : BusConfig) (hd : Handles) :
    Inv (execConstruct hw b hd s) := by
  obtain ⟨-, he⟩ | ⟨-, -, he⟩ | ⟨-, -, -, he⟩ | ⟨hp, -, _, e, -, -, he⟩ | ⟨hp, -, a, -, hb, he⟩ :=
    execConstruct_cases hw b hd s <;> rw [he]
  · exact inv_refuse h _
  · exact inv_refuse h _
  · exact inv_refuse h _
  · exact inv_raise_configuration h hp e
  · have idle : (warnExtraFlags b s).phase = .idle := by rw [warnExtraFlags_eq]; exact hp
    exact inv_reply (inv_capture (inv_warnExtraFlags h b) idle hb a hd) _

theorem fits_of_not_tooLong {limit : Option Nat} {ops : List Instr} (h : tooLong limit (totalLength ops) = false) :
    Fits limit ops := by
  rintro m rfl
  simpa [tooLong] using h

theorem inv_submit (h : Inv s) (hl : s.life = .usable) {ops : List Instr} (hf : Fits s.maxTxnBytes ops) :
    Inv (submit ops s) where
  idle := nofun
  gated := fun _ => hl
  legal := h.legal
  fits := hf
  encoding := fun _ => ⟨Nat.zero_le _, ⟨rfl, rfl, rfl⟩, rfl, rfl⟩
  transferring := nofun
  decoding := nofun

theorem inv_execTransact (h : Inv s) (raw : List RawOp) : Inv (execTransact raw s) := by
  obtain ⟨-, he⟩ | ⟨-, -, he⟩ | ⟨-, -, _, _, -, he⟩ | ⟨-, -, -, -, he⟩ | ⟨hl, -, -, ht, he⟩ :=
    execTransact_cases raw s <;> rw [he]
  · exact inv_refuse h _
  · exact inv_refuse h _
  · exact inv_refuse (h.with_channels ..) _
  · exact inv_refuse h _
  · exact inv_submit h hl (fits_of_not_tooLong ht)

theorem inv_submitCommand (h : Inv s) (c : Command) : Inv (submitCommand c s) := by
  cases c with
  | construct hw b hd => exact inv_execConstruct h hw b hd
  | transact raw => exact inv_execTransact h raw

/-! ### The codec's own steps -/

theorem lt_length_of_fetch? {i : Instr} (hf : fetch? s = some i) : s.k < s.ops.length :=
  (List.getElem?_eq_some_iff.1 hf).1

/-- At a cursor with nothing left to fetch, the operations done are all of them. -/
theorem take_ops_of_fetch?_eq_none (hf : fetch? s = none) : s.ops.take s.k = s.ops :=
  List.take_of_length_le (List.getElem?_eq_none_iff.1 hf)

theorem Framed.off_eq_totalLength {done : List Instr} (f : Framed done s) : s.off = totalLength done := by
  rw [f.offset, f.frames, outbound_length]

/-- R176: appending the frame of `i` extends the framed operations by `i`. -/
theorem Framed.append {done : List Instr} (f : Framed done s) (i : Instr) :
    Framed (done ++ [i]) (appendFrame (encode s.cfg.hardwareAddress i) s) where
  windows := by simp [f.windows, f.off_eq_totalLength, windowsFrom_append, windowsFrom, encode_length]
  frames := by simp [f.frames, outbound_append]
  offset := by simp [f.offset]

theorem inv_appendFrame (h : Inv s) (hp : s.phase = .encode) {i : Instr} (hf : fetch? s = some i) :
    Inv (appendFrame (encode s.cfg.hardwareAddress i) s) where
  idle := fun hq => by simp [hp] at hq
  gated := h.gated
  legal := h.legal
  fits := h.fits
  encoding := fun _ => by
    obtain ⟨-, framed, hin, hres⟩ := h.encoding hp
    refine ⟨lt_length_of_fetch? hf, ?_, hin, hres⟩
    rw [appendFrame_ops, appendFrame_k, take_succ_of_getElem? hf]
    exact framed.append i
  transferring := fun hq => by simp [hp] at hq
  decoding := fun hq => by simp [hp] at hq

theorem inv_encodeDone (h : Inv s) (hp : s.phase = .encode) (hf : fetch? s = none) : Inv (encodeDone s) where
  idle := nofun
  gated := fun _ => h.gated (by simp [hp])
  legal := h.legal
  fits := h.fits
  encoding := nofun
  transferring := fun _ => by
    obtain ⟨-, framed, hin, hres⟩ := h.encoding hp
    rw [take_ops_of_fetch?_eq_none hf] at framed
    exact ⟨⟨framed.windows, framed.frames, framed.offset⟩, hin, hres, by simp⟩
  decoding := nofun

/-- R178: an answer as long as `OUT` starts the decode walk. -/
theorem inv_startDecoding (h : Inv s) (hp : s.phase = .transfer) {inbound : List Byte}
    (hlen : inbound.length = s.out.length) (bus : List BusAnswer) :
    Inv { s with bus := bus, inb := inbound, k := 0, phase := .decode } where
  idle := nofun
  gated := fun _ => h.gated (by simp [hp])
  legal := h.legal
  fits := h.fits
  encoding := nofun
  transferring := nofun
  decoding := fun _ => by
    obtain ⟨framed, -, hres, -⟩ := h.transferring hp
    exact ⟨Nat.zero_le _, ⟨framed.windows, framed.frames, framed.offset⟩, hlen, hres⟩

theorem inv_raise_transport (h : Inv s) (e : TransportError) : Inv (raise (.transport e) s) :=
  inv_reply (inv_clearTransient h) _

theorem inv_awaitAnswer (h : Inv s) (hp : s.phase = .transfer) : Inv (awaitAnswer s) := by
  obtain ⟨-, ha⟩ | ⟨_, rest, -, hlen, ha⟩ | ⟨_, _, -, -, ha⟩ | ⟨_, _, -, ha⟩ := awaitAnswer_cases s <;> rw [ha]
  · exact h
  · exact inv_startDecoding h hp hlen rest
  · exact inv_raise_transport (h.with_channels ..) _
  · exact inv_raise_transport (h.with_channels ..) _

/-- R180: the result taken from the recorded window is the next one of `demux`. -/
theorem inv_appendResult (h : Inv s) (hp : s.phase = .decode) {i : Instr} (hf : fetch? s = some i) {w : Window}
    (hw : s.win[s.k]? = some w) : Inv (appendResult (parse i (memRead s.inb w)) s) where
  idle := fun hq => by simp [hp] at hq
  gated := h.gated
  legal := h.legal
  fits := h.fits
  encoding := fun hq => by simp [hp] at hq
  transferring := fun hq => by simp [hp] at hq
  decoding := fun _ => by
    obtain ⟨-, framed, hlen, hres⟩ := h.decoding hp
    refine ⟨lt_length_of_fetch? hf, ⟨framed.windows, framed.frames, framed.offset⟩, hlen, ?_⟩
    have hnext : (demux s.ops s.inb)[s.k]? = some (parse i (memRead s.inb w)) := by
      rw [demux, List.getElem?_zipWith, ← framed.windows, hw, show s.ops[s.k]? = some i from hf]
    simp [take_succ_of_getElem? hnext, hres]

theorem inv_exec (h : Inv s) {i : Instr} (hf : fetch? s = some i) (hs : exec i s = .next s') : Inv s' := by
  rw [exec_eq_operate] at hs
  obtain ⟨hp, rfl⟩ | ⟨hp, w, hw, rfl⟩ := operate_next hs
  · exact inv_appendFrame h hp hf
  · exact inv_appendResult h hp hf hw

theorem inv_decodeDone (h : Inv s) : Inv (decodeDone s) := inv_reply (inv_clearTransient h) _

theorem inv_codecStep (h : Inv s) (hs : codecStep s = .next s') : Inv s' := by
  obtain ⟨-, rfl⟩ | ⟨hp, hf, rfl⟩ | ⟨hp, rfl⟩ | ⟨-, -, rfl⟩ | ⟨-, i, hf, hi⟩ := codecStep_cases hs
  · exact h
  · exact inv_encodeDone h hp hf
  · exact inv_awaitAnswer h hp
  · exact inv_decodeDone h
  · exact inv_exec h hf hi

/-- Settles O56: whichever way the turn falls, a command submitted or a step of the codec keeps the invariant. -/
theorem everyStepKeepsTheBooks : Obligations.EveryStepKeepsTheBooks := by
  intro s s' h hs
  obtain ⟨c, rest, -, ht⟩ | ⟨-, ht⟩ | ⟨rest, -, ht⟩ := step_turn s <;> rw [ht] at hs
  · cases hs
    exact inv_submitCommand (h.with_channels ..) c
  · exact inv_codecStep h hs
  · exact inv_codecStep (h.with_channels ..) hs

/-- Settles O55: the reset state is idle, holds no transaction and is not usable. -/
theorem resetKeepsTheBooks : Obligations.ResetKeepsTheBooks :=
  .of_idle rfl ⟨rfl, rfl, rfl, rfl, rfl, rfl, rfl⟩ nofun

/-- Settles O54: each field by its definition; with no host event the idle codec's step is the identity. -/
theorem resetWaitsForConstruct : Obligations.ResetWaitsForConstruct :=
  ⟨rfl, rfl, rfl, rfl, rfl, rfl, rfl, rfl, rfl, rfl, step_waits rfl⟩

end Sys2Proof.Machine
end

section
/-! What the invariant says of the transient state (R40). -/

namespace Sys2Proof.Machine

variable {s : State}

/-- R162, with the frame length written out. -/
theorem totalLength_eq_sum (ops : List Instr) : totalLength ops = (ops.map fun o => 2 + o.payloadLength).sum := rfl

/-- The frame of an operation stands in the outbound sequence where the frames before it end. -/
theorem slice_outbound (a : HwAddr) {ops : List Instr} {j : Nat} {op : Instr} (h : ops[j]? = some op) :
    slice (outbound a ops) (totalLength (ops.take j)) op.frameLength = encode a op := by
  have hsplit : ops = ops.take j ++ op :: ops.drop (j + 1) := by
    obtain ⟨hj, rfl⟩ := List.getElem?_eq_some_iff.1 h
    rw [List.getElem_cons_drop, List.take_append_drop]
  calc slice (outbound a ops) (totalLength (ops.take j)) op.frameLength
      = slice (outbound a (ops.take j) ++ (encode a op ++ outbound a (ops.drop (j + 1))))
          (outbound a (ops.take j)).length (encode a op).length := by
        rw [← outbound_cons, ← outbound_append, ← hsplit, outbound_length, encode_length]
    _ = encode a op := by simp [slice]

theorem Framed.length_win {done : List Instr} (f : Framed done s) : s.win.length = done.length := by
  rw [f.windows, windowsFrom_length]

/-- The window recorded for the operation at index `j` of those done, and what it holds in `OUT`. -/
theorem Framed.window_at {done : List Instr} (f : Framed done s) {j : Nat} {op : Instr} (h : done[j]? = some op) :
    s.win[j]? = some ⟨totalLength (done.take j), op.frameLength⟩ ∧
      slice s.out (totalLength (done.take j)) op.frameLength = encode s.cfg.hardwareAddress op := by
  constructor
  · simp [f.windows, windowsFrom_getElem?, h]
  · rw [f.frames, slice_outbound _ h]

/-- Settles O58: each phase's clause of the invariant, with the windows and frames of `Framed` read off. -/
theorem booksTieTransientStateTogether : Obligations.BooksTieTransientStateTogether := by
  intro s h
  refine ⟨fun hp => ?_, fun hp => ?_, fun hp => ?_⟩
  · obtain ⟨hk, framed, -, -⟩ := h.encoding hp
    refine ⟨by simpa [hk] using framed.length_win, framed.offset, framed.off_eq_totalLength, fun j op hj hop => ?_⟩
    have hdone : (s.ops.take s.k)[j]? = some op := by rw [List.getElem?_take_of_lt hj, hop]
    have htake : (s.ops.take s.k).take j = s.ops.take j := by rw [List.take_take, Nat.min_eq_left hj.le]
    obtain ⟨hwin, hslice⟩ := framed.window_at hdone
    rw [htake] at hwin hslice
    exact ⟨_, hwin, totalLength_eq_sum _, rfl, hslice⟩
  · have framed : Framed s.ops s := hp.elim (fun ht => (h.transferring ht).1) fun hd => (h.decoding hd).2.1
    exact ⟨by rw [framed.frames, outbound, List.flatMap_def], framed.length_win, framed.offset⟩
  · obtain ⟨hk, -, hlen, hres⟩ := h.decoding hp
    exact ⟨hlen, by simp [hres, hk]⟩

end Sys2Proof.Machine
end

section
/-! The wire order of an outbound sequence (R50, R51), and the windows of a transaction as a partition of its byte
range (R54). -/

namespace Sys2Proof.Machine

/-! ### The wire -/

@[simp] theorem wireBits_length (b : Byte) : (wireBits b).length = 8 := by simp [wireBits]

/-- R51: bit 7 is the first of a byte on the wire, bit 0 the last. -/
theorem wireBits_getElem? (b : Byte) {j : Nat} (hj : j < 8) : (wireBits b)[j]? = some (b.getLsbD (7 - j)) := by
  simp [wireBits, hj]

theorem wireSequence_cons (b : Byte) (rest : List Byte) :
    wireSequence (b :: rest) = wireBits b ++ wireSequence rest := rfl

theorem wireSequence_length (out : List Byte) : (wireSequence out).length = 8 * out.length := by
  induction out with
  | nil => rfl
  | cons b rest ih =>
    rw [wireSequence_cons, List.length_append, wireBits_length, ih, List.length_cons]
    omega

theorem wireSequence_getElem? {out : List Byte} {i j : Nat} {b : Byte} (hb : out[i]? = some b) (hj : j < 8) :
    (wireSequence out)[8 * i + j]? = some (b.getLsbD (7 - j)) := by
  induction out generalizing i with
  | nil => simp at hb
  | cons c rest ih =>
    rw [wireSequence_cons]
    cases i with
    | zero =>
      obtain rfl : c = b := by simpa using hb
      rw [List.getElem?_append_left (by simpa using hj), Nat.mul_zero, Nat.zero_add, wireBits_getElem? c hj]
    | succ i =>
      have hskip : 8 * (i + 1) + j - (wireBits c).length = 8 * i + j := by rw [wireBits_length]; omega
      rw [List.getElem?_append_right (by rw [wireBits_length]; omega), hskip, ih (by simpa using hb)]

/-- Settles O52: eight bits per byte, and bit `8 i + j` is the `j`th that byte `i` puts on the wire. -/
theorem wireOrderIsMostSignificantBitFirst : Obligations.WireOrderIsMostSignificantBitFirst :=
  fun out => ⟨wireSequence_length out, fun _ _ _ => wireSequence_getElem?⟩

/-! ### The windows -/

/-- Where one frame ends the next begins. -/
theorem totalLength_take_succ {ops : List Instr} {k : Nat} {op : Instr} (h : ops[k]? = some op) :
    totalLength (ops.take (k + 1)) = totalLength (ops.take k) + op.frameLength := by
  rw [take_succ_of_getElem? h, totalLength_append, totalLength_cons, totalLength_nil, Nat.add_zero]

theorem totalLength_take_le (ops : List Instr) {k m : Nat} (h : k ≤ m) :
    totalLength (ops.take k) ≤ totalLength (ops.take m) := by
  obtain ⟨later, happend⟩ := List.take_prefix_take_left h (l := ops)
  rw [← happend, totalLength_append]
  exact Nat.le_add_right ..

/-- R162: a window recorded at index `k` is that of the operation at index `k`, and every operation has one. -/
theorem windowsFrom_zero_eq_some {ops : List Instr} {k : Nat} {w : Window} :
    (windowsFrom 0 ops)[k]? = some w ↔
      ∃ op, ops[k]? = some op ∧ w = ⟨totalLength (ops.take k), op.frameLength⟩ := by
  rw [windowsFrom_getElem?, Option.map_eq_some_iff, Nat.zero_add]
  exact exists_congr fun op => and_congr_right fun _ => eq_comm

theorem window_end {ops : List Instr} {k : Nat} {w : Window} (h : (windowsFrom 0 ops)[k]? = some w) :
    w.offset + w.length = totalLength (ops.take (k + 1)) := by
  obtain ⟨op, hop, rfl⟩ := windowsFrom_zero_eq_some.1 h
  exact (totalLength_take_succ hop).symm

theorem window_offset {ops : List Instr} {k : Nat} {w : Window} (h : (windowsFrom 0 ops)[k]? = some w) :
    w.offset = totalLength (ops.take k) := by
  obtain ⟨op, -, rfl⟩ := windowsFrom_zero_eq_some.1 h
  rfl

/-- Of two windows the earlier one ends before the later one begins. -/
theorem window_end_le_offset {ops : List Instr} {k m : Nat} {v w : Window} (hv : (windowsFrom 0 ops)[k]? = some v)
    (hw : (windowsFrom 0 ops)[m]? = some w) (h : k < m) : v.offset + v.length ≤ w.offset := by
  rw [window_end hv, window_offset hw]
  exact totalLength_take_le ops h

/-- No byte offset lies in two windows. -/
theorem window_index_unique {ops : List Instr} {k m j : Nat} {v w : Window}
    (hv : (windowsFrom 0 ops)[k]? = some v) (hw : (windowsFrom 0 ops)[m]? = some w)
    (hjv : v.offset ≤ j ∧ j < v.offset + v.length) (hjw : w.offset ≤ j ∧ j < w.offset + w.length) : k = m := by
  obtain hlt | heq | hgt := Nat.lt_trichotomy k m
  · have := window_end_le_offset hv hw hlt
    omega
  · exact heq
  · have := window_end_le_offset hw hv hgt
    omega

/-- Every byte offset from the beginning of the first window to the end of the last lies in some window. -/
theorem exists_window_of_lt (ops : List Instr) {o j : Nat} (ho : o ≤ j) (hj : j < o + totalLength ops) :
    ∃ (k : Nat) (w : Window), (windowsFrom o ops)[k]? = some w ∧ w.offset ≤ j ∧ j < w.offset + w.length := by
  induction ops generalizing o with
  | nil =>
    rw [totalLength_nil] at hj
    omega
  | cons i rest ih =>
    by_cases hfirst : j < o + i.frameLength
    · exact ⟨0, ⟨o, i.frameLength⟩, rfl, ho, hfirst⟩
    · obtain ⟨k, w, hw, hlo, hhi⟩ := ih (o := o + i.frameLength) (by omega) (by rw [totalLength_cons] at hj; omega)
      exact ⟨k + 1, w, hw, hlo, hhi⟩

/-- Settles O44: the window at index `k` is `⟨totalLength (ops.take k), op.frameLength⟩`, so each clause is a fact
about the lengths of the prefixes of `ops`. -/
theorem windowsPartitionTheByteRange : Obligations.WindowsPartitionTheByteRange := by
  intro a ops inb _
  refine ⟨windowsFrom_length 0 ops, fun k op hop => ?_, fun j hj => ?_⟩
  · have hw := windowsFrom_zero_eq_some.2 ⟨op, hop, rfl⟩
    refine ⟨_, hw, rfl, ?_, fun w' hw' => ?_, fun hlast => ?_, slice_outbound a hop, ?_⟩
    · rintro rfl; rfl
    · rw [window_end hw, window_offset hw']
    · rw [window_end hw, hlast, List.take_length, outbound_length]
    · rw [demux_getElem?, hop]; rfl
  · rw [outbound_length] at hj
    obtain ⟨k, w, hw, hlo, hhi⟩ := exists_window_of_lt ops (Nat.zero_le j) (by rwa [Nat.zero_add])
    exact ⟨k, w, hw, hlo, hhi, fun k' w' hw' hlo' hhi' => window_index_unique hw' hw ⟨hlo', hhi'⟩ ⟨hlo, hhi⟩⟩

end Sys2Proof.Machine
end

section
/-! A serial host's transactions, from submission to answer: the codec's steps when no command can arrive, the two
walks, and whole transactions one after another (R65, R160, R182). -/

namespace Sys2Proof.Machine

variable {s : State}

/-! ### The codec's steps, phase by phase -/

/-- R234: while a transaction is in flight, a serial host lets the codec step. -/
theorem step_of_serialHost (hh : SerialHost s.host) (hp : s.phase ≠ .idle) : step s = codecStep s := by
  refine step_waits ?_
  cases hs : s.host with
  | nil => simp [hostWaits, hs]
  | cons e rest =>
    obtain ⟨c, rfl⟩ := hh e (by simp [hs])
    simpa [hostWaits, hs] using hp

theorem codecStep_encode_operation (hp : s.phase = .encode) {i : Instr} (hf : fetch? s = some i) :
    codecStep s = .next (appendFrame (encode s.cfg.hardwareAddress i) s) := by
  simp [codecStep, hp, hf, exec_eq_operate, operate_encode]

theorem codecStep_encode_end (hp : s.phase = .encode) (hf : fetch? s = none) :
    codecStep s = .next (encodeDone s) := by
  simp [codecStep, hp, hf]

theorem codecStep_transfer (hp : s.phase = .transfer) : codecStep s = .next (awaitAnswer s) := by
  simp [codecStep, hp]

theorem codecStep_decode_operation (hp : s.phase = .decode) {i : Instr} (hf : fetch? s = some i) {w : Window}
    (hw : s.win[s.k]? = some w) : codecStep s = .next (appendResult (parse i (memRead s.inb w)) s) := by
  simp [codecStep, hp, hf, exec_eq_operate, operate_decode hp hw]

theorem codecStep_decode_end (hp : s.phase = .decode) (hf : fetch? s = none) :
    codecStep s = .next (decodeDone s) := by
  simp [codecStep, hp, hf]

theorem Reaches.single {t : State} (h : step s = .next t) : Reaches 1 s t := .cons h (.zero t)

/-- States each one step after the one before are reached in turn. -/
theorem Reaches.iterate {f : Nat → State} {n : Nat} (h : ∀ k < n, step (f k) = .next (f (k + 1))) :
    Reaches n (f 0) (f n) := by
  induction n with
  | zero => exact .zero _
  | succ n ih =>
    exact (ih fun k hk => h k (Nat.lt_succ_of_lt hk)).trans (.single (h n (Nat.lt_succ_self n)))

/-! ### The encode walk -/

/-- `s` with the frames of its first `k` operations appended (R176). -/
def framedUpTo (k : Nat) (s : State) : State :=
  { s with
    k := k
    off := totalLength (s.ops.take k)
    out := outbound s.cfg.hardwareAddress (s.ops.take k)
    win := windowsFrom 0 (s.ops.take k) }

theorem framedUpTo_succ {k : Nat} {i : Instr} (h : s.ops[k]? = some i) :
    appendFrame (encode s.cfg.hardwareAddress i) (framedUpTo k s) = framedUpTo (k + 1) s := by
  simp [framedUpTo, appendFrame, take_succ_of_getElem? h, totalLength_append, outbound_append, windowsFrom_append,
    windowsFrom, encode_length]

/-- R176: the encode walk appends the frame of every operation. -/
theorem reaches_framedUpTo (hh : SerialHost s.host) (hp : s.phase = .encode) :
    Reaches s.ops.length (framedUpTo 0 s) (framedUpTo s.ops.length s) :=
  Reaches.iterate (f := (framedUpTo · s)) fun k hk => by
    have hi : s.ops[k]? = some s.ops[k] := List.getElem?_eq_getElem hk
    have hbusy : s.phase ≠ .idle := by simp [hp]
    calc step (framedUpTo k s)
        = codecStep (framedUpTo k s) := step_of_serialHost hh hbusy
      _ = .next (appendFrame (encode s.cfg.hardwareAddress s.ops[k]) (framedUpTo k s)) :=
        codecStep_encode_operation (s := framedUpTo k s) hp hi
      _ = .next (framedUpTo (k + 1) s) := by rw [framedUpTo_succ hi]

/-! ### The decode walk -/

/-- `s` with the results of its first `k` operations extracted (R180). -/
def extractedUpTo (k : Nat) (s : State) : State :=
  { s with k := k, res := (demux s.ops s.inb).take k }

theorem extractedUpTo_succ {k : Nat} {i : Instr} {w : Window} (hi : s.ops[k]? = some i)
    (hw : (windowsFrom 0 s.ops)[k]? = some w) :
    appendResult (parse i (memRead s.inb w)) (extractedUpTo k s) = extractedUpTo (k + 1) s := by
  have hnext : (demux s.ops s.inb)[k]? = some (parse i (memRead s.inb w)) := by
    rw [demux, List.getElem?_zipWith, hi, hw]
  simp [extractedUpTo, appendResult, take_succ_of_getElem? hnext]

/-- R180: the decode walk extracts the result of every operation. -/
theorem reaches_extractedUpTo (hh : SerialHost s.host) (hp : s.phase = .decode)
    (hwin : s.win = windowsFrom 0 s.ops) :
    Reaches s.ops.length (extractedUpTo 0 s) (extractedUpTo s.ops.length s) :=
  Reaches.iterate (f := (extractedUpTo · s)) fun k hk => by
    have hi : s.ops[k]? = some s.ops[k] := List.getElem?_eq_getElem hk
    have hw := windowsFrom_zero_eq_some.2 ⟨_, hi, rfl⟩
    have hbusy : s.phase ≠ .idle := by simp [hp]
    calc step (extractedUpTo k s)
        = codecStep (extractedUpTo k s) := step_of_serialHost hh hbusy
      _ = .next (appendResult (parse s.ops[k] (memRead s.inb _)) (extractedUpTo k s)) :=
        codecStep_decode_operation (s := extractedUpTo k s) hp hi (hwin ▸ hw :)
      _ = .next (extractedUpTo (k + 1) s) := by rw [extractedUpTo_succ hi hw]

/-! ### One transaction -/

theorem not_tooLong_of_fits {limit : Option Nat} {ops : List Instr} (h : Fits limit ops) :
    tooLong limit (totalLength ops) = false := by
  cases limit with
  | none => rfl
  | some m => simpa [tooLong] using h m rfl

/-- R39: clearing the transient state of an idle codec changes nothing. -/
theorem Inv.clearTransient_eq (h : Inv s) (hp : s.phase = .idle) : clearTransient s = s := by
  obtain ⟨hops, hk, hoff, hout, hwin, hinb, hres⟩ := h.idle hp
  cases s
  simp_all [clearTransient]

/-- `s` with a transaction of `ops` in phase TRANSFER: every frame appended, the request made (R177). -/
def requested (ops : List Instr) (s : State) : State := encodeDone (framedUpTo ops.length (submit ops s))

theorem requested_out (ops : List Instr) (s : State) :
    (requested ops s).out = outbound s.cfg.hardwareAddress ops := by
  simp [requested, framedUpTo]

theorem requested_win (ops : List Instr) (s : State) : (requested ops s).win = windowsFrom 0 ops := by
  simp [requested, framedUpTo]

/-- R175 to R177: a TRANSACT that fits is accepted, and the walk over its operations ends in the request. -/
theorem reaches_requested {ops : List Instr} {rest : List HostEvent}
    (hhost : s.host = .call (.transact (ops.map .ofInstr)) :: rest) (hserial : SerialHost rest)
    (hl : s.life = .usable) (hp : s.phase = .idle) (hfits : Fits s.maxTxnBytes ops) :
    Reaches (ops.length + 2) s (requested ops { s with host := rest }) := by
  let t : State := submit ops { s with host := rest }
  have accept : step s = .next (framedUpTo 0 t) := by
    rw [step_arrives (.inr ⟨hhost, hp⟩)]
    exact congrArg _ (execTransact_typed ops hl hp (not_tooLong_of_fits hfits))
  have walk : Reaches ops.length (framedUpTo 0 t) (framedUpTo ops.length t) :=
    reaches_framedUpTo (s := t) hserial rfl
  have fetched : fetch? (framedUpTo ops.length t) = none := List.getElem?_length _
  have request : step (framedUpTo ops.length t) = .next (encodeDone (framedUpTo ops.length t)) :=
    (step_of_serialHost hserial (fun h => by cases h)).trans (codecStep_encode_end rfl fetched)
  exact .cons accept (walk.trans (.single request))

/-- R179 to R181, R39: with the transaction cleared away, the request and the answer taken are what is left of it. -/
theorem clearTransient_requested (h : Inv s) (hp : s.phase = .idle) (ops : List Instr) (more : List BusAnswer) :
    clearTransient { requested ops s with bus := more } =
      { s with bus := more, requests := s.requests ++ [outbound s.cfg.hardwareAddress ops] } :=
  calc clearTransient { requested ops s with bus := more }
      = { clearTransient s with bus := more, requests := s.requests ++ [(requested ops s).out] } := rfl
    _ = _ := by rw [h.clearTransient_eq hp, requested_out]

/-- R180, R181: the decode walk from its beginning ends in the results of all operations. -/
theorem decode_reaches_results (hh : SerialHost s.host) (hp : s.phase = .decode)
    (hwin : s.win = windowsFrom 0 s.ops) (hk : s.k = 0) (hres : s.res = []) :
    Reaches (s.ops.length + 1) s (reply (.results (demux s.ops s.inb)) (clearTransient s)) := by
  have start : extractedUpTo 0 s = s := by
    rw [extractedUpTo, List.take_zero, ← hk, ← hres]
  have walk := reaches_extractedUpTo hh hp hwin
  have fetched : fetch? (extractedUpTo s.ops.length s) = none := List.getElem?_length _
  have all : (demux s.ops s.inb).take s.ops.length = demux s.ops s.inb := List.take_of_length_le (by simp)
  have deliver :=
    calc step (extractedUpTo s.ops.length s)
        = codecStep (extractedUpTo s.ops.length s) := step_of_serialHost hh (by simp [hp, extractedUpTo])
      _ = .next (reply (.results ((demux s.ops s.inb).take s.ops.length)) (clearTransient s)) :=
        codecStep_decode_end hp fetched
      _ = .next (reply (.results (demux s.ops s.inb)) (clearTransient s)) := by rw [all]
  rw [start] at walk
  exact walk.trans (.single deliver)

/-- R178 to R181: from the request the primitive's answer leads to the outcome of the atomic command. -/
theorem requested_reaches_outcome (h : Inv s) (hp : s.phase = .idle) (hserial : SerialHost s.host)
    (ops : List Instr) {answer : BusAnswer} {more : List BusAnswer} (hbus : s.bus = answer :: more) :
    ∃ n ≤ ops.length + 2, Reaches n (requested ops s) (transactAtomically ops answer { s with bus := more }) := by
  have answered : step (requested ops s) = .next (awaitAnswer (requested ops s)) :=
    (step_of_serialHost (s := requested ops s) hserial nofun).trans (codecStep_transfer rfl)
  have outcome : transactAtomically ops answer { s with bus := more } =
      reply (transactReply s.cfg.hardwareAddress ops answer) (clearTransient { requested ops s with bus := more }) := by
    rw [transactAtomically, clearTransient_requested h hp]
  rw [outcome]
  cases answer with
  | failure e =>
    have hfail : awaitAnswer (requested ops s) = transferFail e { requested ops s with bus := more } := by
      rw [awaitAnswer, show (requested ops s).bus = _ from hbus]
    rw [hfail] at answered
    exact ⟨1, by omega, .single answered⟩
  | sequence inb =>
    have hreturn : awaitAnswer (requested ops s) = transferReturn inb { requested ops s with bus := more } := by
      rw [awaitAnswer, show (requested ops s).bus = _ from hbus]
    rw [hreturn, transferReturn, requested_out] at answered
    by_cases hlen : inb.length = (outbound s.cfg.hardwareAddress ops).length
    · rw [if_pos hlen] at answered
      rw [transactReply, if_pos hlen]
      exact ⟨ops.length + 2, le_rfl, .cons answered (decode_reaches_results hserial rfl (requested_win ops s) rfl rfl)⟩
    · rw [if_neg hlen] at answered
      rw [transactReply, if_neg hlen]
      exact ⟨1, by omega, .single answered⟩

/-- R160, R182: from the TRANSACT of a serial host the machine reaches the outcome of the atomic command. -/
theorem transact_reaches_outcome {ops : List Instr} {rest : List HostEvent} {answer : BusAnswer}
    {more : List BusAnswer} (h : Inv s) (hl : s.life = .usable) (hp : s.phase = .idle)
    (hhost : s.host = .call (.transact (ops.map .ofInstr)) :: rest) (hserial : SerialHost rest)
    (hbus : s.bus = answer :: more) (hfits : Fits s.maxTxnBytes ops) :
    ∃ n ≤ 2 * ops.length + 4,
      Reaches n s (transactAtomically ops answer { s with host := rest, bus := more }) := by
  have request := reaches_requested hhost hserial hl hp hfits
  obtain ⟨n, hn, answered⟩ := requested_reaches_outcome (s := { s with host := rest }) (h.with_channels ..) hp
    hserial ops hbus
  exact ⟨ops.length + 2 + n, by omega, request.trans answered⟩

/-! ### A session -/

theorem serialHost_sessionCalls (session : List (List Instr × BusAnswer)) : SerialHost (sessionCalls session) := by
  intro e he
  obtain ⟨t, -, rfl⟩ := List.mem_map.1 he
  exact ⟨_, rfl⟩

/-- The atomic command leaves an idle codec that keeps the books. -/
theorem inv_transactAtomically (h : Inv s) (hp : s.phase = .idle) (ops : List Instr) (answer : BusAnswer) :
    Inv (transactAtomically ops answer s) :=
  .of_idle hp (h.idle hp) h.legal

/-- Settles O60, by induction on the session: each transaction leads to the outcome of the atomic command, an idle
state from which the rest of the session is submitted. -/
theorem sessionKeepsSubmissionOrder : Obligations.SessionKeepsSubmissionOrder := by
  intro session
  induction session with
  | nil =>
    intro s more _ _ _ hhost hbus _
    obtain rfl : s.bus = more := hbus
    exact ⟨0, by simpa [← show s.host = [] from hhost] using Reaches.zero s⟩
  | cons t session ih =>
    intro s more h hl hp hhost hbus hfits
    obtain ⟨ops, answer⟩ := t
    obtain ⟨hfit, hfits⟩ := List.forall_mem_cons.1 hfits
    let s₁ : State := { s with host := sessionCalls session, bus := sessionAnswers session ++ more }
    obtain ⟨m, -, first⟩ : ∃ n ≤ 2 * ops.length + 4, Reaches n s (transactAtomically ops answer s₁) :=
      transact_reaches_outcome h hl hp hhost (serialHost_sessionCalls session) hbus hfit
    have kept : Inv (transactAtomically ops answer s₁) :=
      inv_transactAtomically (s := s₁) (h.with_channels ..) hp ops answer
    obtain ⟨n, others⟩ := ih (transactAtomically ops answer s₁) more kept hl hp rfl rfl hfits
    refine ⟨m + n, first.trans ?_⟩
    simpa [s₁, transactAtomically] using others

end Sys2Proof.Machine
end

section
/-! The control byte as a number, the first byte of every frame (R87), and which answer bytes TRANSACT reads (R93). -/

namespace Sys2Proof.Machine

/-! ### The control byte -/

/-- R130 in its arithmetic form. -/
theorem ctrl_toNat (a : HwAddr) (rw : BitVec 1) : (ctrl a rw).toNat = 0x40 + 2 * a.toNat + rw.toNat := by
  revert a rw; decide

theorem ctrl_eq_ofNat (a : HwAddr) (rw : BitVec 1) : ctrl a rw = BitVec.ofNat 8 (0x40 + 2 * a.toNat + rw.toNat) := by
  rw [← ctrl_toNat, BitVec.ofNat_toNat, BitVec.setWidth_eq]

/-- A byte of the family is the control byte of its own address bits and its own bit 0 (R81). -/
theorem ctrl_addrOf {c : Byte} (hlo : 0x40 ≤ c.toNat) (hhi : c.toNat ≤ 0x4F) :
    ctrl (addrOf c) (c.extractLsb' 0 1) = c := by
  apply BitVec.eq_of_toNat_eq
  rw [ctrl_toNat, addrOf, BitVec.extractLsb'_toNat, BitVec.extractLsb'_toNat, Nat.shiftRight_eq_div_pow,
    Nat.shiftRight_zero]
  omega

/-- R87, R90: the control bytes of all instances. -/
theorem exists_ctrl_eq_iff (c : Byte) : (∃ a rw, ctrl a rw = c) ↔ 0x40 ≤ c.toNat ∧ c.toNat ≤ 0x4F := by
  constructor
  · rintro ⟨a, rw, rfl⟩
    rw [ctrl_toNat]
    omega
  · rintro ⟨hlo, hhi⟩
    exact ⟨_, _, ctrl_addrOf hlo hhi⟩

theorem encode_head? (a : HwAddr) (i : Instr) : (encode a i).head? = some (ctrl a i.rw) := by
  cases i <;> rfl

/-- Each value of bit 0 is the opcode of an operation kind (R87). -/
theorem exists_instr_rw (rw : BitVec 1) : ∃ i : Instr, i.rw = rw := by
  obtain rfl | rfl := BitVec.eq_zero_or_eq_one rw
  · exact ⟨.write 0 [], rfl⟩
  · exact ⟨.read 0 0, rfl⟩

/-- Settles O7: every frame begins with the control byte of its address and its kind, and both kinds occur, so the
first bytes of frames are the control bytes. -/
theorem opcodeIsBitZeroOfControlByte : Obligations.OpcodeIsBitZeroOfControlByte := by
  refine ⟨fun a r n => ?_, fun a r d => ?_, fun c => ?_⟩
  · rw [encode_head?, ctrl_eq_ofNat, show (Instr.read r n).rw.toNat = 1 from rfl, Nat.add_right_comm]
  · rw [encode_head?, ctrl_eq_ofNat, show (Instr.write r d).rw.toNat = 0 from rfl, Nat.add_zero]
  · rw [← exists_ctrl_eq_iff]
    constructor
    · rintro ⟨a, i, hhead⟩
      exact ⟨a, i.rw, by simpa [encode_head?] using hhead⟩
    · rintro ⟨a, rw, rfl⟩
      obtain ⟨i, rfl⟩ := exists_instr_rw rw
      exact ⟨a, i, encode_head? a i⟩

/-! ### The bytes of the answer that results are made of -/

theorem slice_congr {α : Type} {s t : List α} {o n : Nat} (h : ∀ j < n, s[o + j]? = t[o + j]?) :
    slice s o n = slice t o n := by
  apply List.ext_getElem?
  intro j
  simp only [slice, List.getElem?_take, List.getElem?_drop]
  split
  · exact h j ‹_›
  · rfl

/-- R147, R169: the result of a READ is the payload part of its window. -/
theorem parse_read_window (r : RegAddr) (n : Nat) (inb : List Byte) (o : Nat) :
    parse (.read r n) (memRead inb ⟨o, (Instr.read r n).frameLength⟩) = .bytes (slice inb (o + 2) n) := by
  simp [parse, readResult, memRead, slice, Instr.frameLength, Instr.payloadLength, Config.headerLen, List.drop_take]

/-- R93 for the results: they depend on the payload bytes of the READs alone. -/
theorem demux_congr {ops : List Instr} {inb inb' : List Byte}
    (h : ∀ (k : Nat) (r : RegAddr) (n j : Nat), ops[k]? = some (.read r n) → j < n →
      inb[totalLength (ops.take k) + 2 + j]? = inb'[totalLength (ops.take k) + 2 + j]?) :
    demux ops inb = demux ops inb' := by
  apply List.ext_getElem?
  intro k
  rw [demux_getElem?, demux_getElem?]
  apply Option.map_congr
  intro op hop
  cases op with
  | read r n =>
    rw [parse_read_window, parse_read_window, slice_congr fun j hj => h k r n j hop hj]
  | write r d => rfl

/-- Settles O49: the length check sees equal lengths, and the results see equal payload bytes. -/
theorem dontCareBytesInfluenceNothing : Obligations.DontCareBytesInfluenceNothing := by
  intro a ops inb inb' hlen hpayload
  rw [transactReply, transactReply, hlen, demux_congr hpayload]

end Sys2Proof.Machine
end

section
/-! CONSTRUCT arriving at an idle codec: the order of the four checks, what the step answers in each of its four
outcomes, and the statements about them (spec/40_config_validator.md R111 to R121). -/

namespace Sys2Proof.Machine

/-- R115, decision D7: the four checks in their order, with the bounds of R111 to R114 written out. -/
theorem checkBus_eq (b : BusConfig) : checkBus b =
    if ¬ (b.clockMode = 0 ∨ b.clockMode = 3) then some (.clockMode b.clockMode)
    else if 10000000 < b.maxClockHz then some (.maxClockRate b.maxClockHz)
    else if b.bitOrder ≠ .msbFirst then some (.bitOrder b.bitOrder)
    else if b.wordSize ≠ 8 then some (.wordSize b.wordSize)
    else none :=
  if_congr (by simp [Config.clockModesOk]) rfl rfl

theorem exists_checkBus_eq_some {b : BusConfig} (h : ¬ LegalBus b) : ∃ e, checkBus b = some e :=
  Option.ne_none_iff_exists'.1 (mt (checkBus_eq_none b).1 h)

theorem hwAddr?_eq_none {hw : RawNum} (h : hw.isHwAddr = false) : hwAddr? hw = none := by
  rwa [← hwAddr?_isSome, Option.isSome_eq_false_iff, Option.isNone_iff_eq_none] at h

theorem exists_hwAddr?_eq_some {hw : RawNum} (h : hw.isHwAddr = true) : ∃ a, hwAddr? hw = some a := by
  rwa [← hwAddr?_isSome, Option.isSome_iff_exists] at h

section
variable {s : State} {rest : List HostEvent} {hw : RawNum} {b : BusConfig} {hd : Handles}
variable (arrives : Arrives (.construct hw b hd) rest s) (idle : s.phase = .idle)
include arrives idle

/-- R121: only an unconstructed codec accepts a CONSTRUCT. -/
theorem step_construct_again (hl : s.life ≠ .unconstructed) :
    step s = .next { s with host := rest, replies := s.replies ++ [.refused .alreadyConstructed] } := by
  rw [step_arrives arrives]
  simp [submitCommand, execConstruct, idle, hl, refuse, reply]

variable (unconstructed : s.life = .unconstructed)
include unconstructed

/-- R120, decision D3: a hardware address outside 0 to 7 is refused, before the bus is judged. -/
theorem step_construct_address_out_of_range (hr : hw.isHwAddr = false) :
    step s = .next { s with host := rest, replies := s.replies ++ [.refused .hardwareAddressRange] } := by
  rw [step_arrives arrives]
  simp [submitCommand, execConstruct, idle, unconstructed, hwAddr?_eq_none hr, refuse, reply]

/-- R115, R200: the error of a failed check is the answer, and rejecting the codec is its only other effect. -/
theorem step_construct_illegal (hr : hw.isHwAddr = true) {e : ConfigurationError} (he : checkBus b = some e) :
    step s = .next { s with
      host := rest, life := .rejected, replies := s.replies ++ [.error (.configuration e)] } := by
  obtain ⟨a, ha⟩ := exists_hwAddr?_eq_some hr
  rw [step_arrives arrives]
  simp [submitCommand, execConstruct, idle, unconstructed, ha, he, raise, reply]

/-- R116, R118: a legal configuration is captured, with a warning for extra flags only. -/
theorem step_construct_legal {a : HwAddr} (ha : hwAddr? hw = some a) (hb : LegalBus b) :
    step s = .next { s with
      host := rest
      cfg := ⟨a, b, hd⟩
      life := .usable
      diag := s.diag ++ if b.extraFlags = 0 then [] else [.extraFlags b.extraFlags]
      replies := s.replies ++ [.constructed] } := by
  rw [step_arrives arrives]
  simp [submitCommand, execConstruct, idle, unconstructed, ha, (checkBus_eq_none b).2 hb, warnExtraFlags_eq, capture,
    reply]

end

/-- Settles O25: a legal configuration fails none of the checks, and the check that an illegal one fails names a
violated parameter. -/
theorem configurationErrorNamesViolatedParameter : Obligations.ConfigurationErrorNamesViolatedParameter := by
  intro s rest hw b hd arrives idle unconstructed hr
  constructor
  · intro legal
    obtain ⟨a, ha⟩ := exists_hwAddr?_eq_some hr
    exact ⟨_, step_construct_legal arrives idle unconstructed ha legal, rfl⟩
  · intro illegal
    obtain ⟨e, he⟩ := exists_checkBus_eq_some illegal
    exact ⟨_, e, step_construct_illegal arrives idle unconstructed hr he, nofun, rfl, rfl, checkBus_names he, rfl⟩

/-- Settles O24: an address written as an integer in 0 to 7 is read back as itself. -/
theorem constructCapturesConfiguration : Obligations.ConstructCapturesConfiguration := by
  intro s rest a b hd arrives idle unconstructed legal
  exact ⟨_, step_construct_legal arrives idle unconstructed (hwAddr?_toNat a) legal, fun noFlags => if_pos noFlags⟩

/-- Settles O26: each clause is one branch of `checkBus_eq`, whose earlier checks passed. -/
theorem firstViolationIsReported : Obligations.FirstViolationIsReported := by
  intro s rest hw b hd arrives idle unconstructed hr
  have reports {e : ConfigurationError} (he : checkBus b = some e) :=
    step_construct_illegal arrives idle unconstructed hr he
  refine ⟨fun mode => reports ?_, fun ⟨mode, rate⟩ => reports ?_, fun ⟨mode, rate, order⟩ => reports ?_,
    fun ⟨mode, rate, order, size⟩ => reports ?_, fun legal => ?_⟩
  · rw [checkBus_eq, if_pos (not_or.2 mode)]
  · rw [checkBus_eq, if_neg (not_not.2 mode), if_pos rate]
  · rw [checkBus_eq, if_neg (not_not.2 mode), if_neg rate.not_gt, if_pos order]
  · rw [checkBus_eq, if_neg (not_not.2 mode), if_neg rate.not_gt, if_neg (not_not.2 order), if_pos size]
  · obtain ⟨a, ha⟩ := exists_hwAddr?_eq_some hr
    exact ⟨_, step_construct_legal arrives idle unconstructed ha legal, rfl, rfl, rfl⟩

/-- Settles O27: the two refusals, the lifecycle judged before the address. -/
theorem constructRefusals : Obligations.ConstructRefusals := by
  intro s rest hw b hd arrives idle
  exact ⟨step_construct_again arrives idle, step_construct_address_out_of_range arrives idle⟩

end Sys2Proof.Machine
end

section
/-! The control byte: its formula and its fields (R130, R131), and where the control bytes of a batch stand (R137). -/

namespace Sys2Proof.Machine

/-! ### The control byte of every frame of a batch -/

/-- Byte `j` of an operation's frame stands `j` bytes after the frames before it. -/
theorem outbound_getElem?_of_frame (a : HwAddr) {ops : List Instr} {k j : Nat} {op : Instr} (h : ops[k]? = some op)
    (hj : j < op.frameLength) : (outbound a ops)[totalLength (ops.take k) + j]? = (encode a op)[j]? := by
  rw [← slice_outbound a h, slice, List.getElem?_take_of_lt hj, List.getElem?_drop]

theorem frameLength_pos (i : Instr) : 0 < i.frameLength := Nat.add_pos_left Nat.two_pos _

/-- Settles O46: the window of an operation begins with byte 0 of its frame, which is its control byte. -/
theorem controlByteAtEveryWindow : Obligations.ControlByteAtEveryWindow := by
  intro a ops k op w hop hw
  obtain ⟨op', hop', rfl⟩ := windowsFrom_zero_eq_some.1 hw
  obtain rfl : op = op' := Option.some.inj (hop.symm.trans hop')
  calc (outbound a ops)[totalLength (ops.take k)]?
      = (encode a op)[0]? := outbound_getElem?_of_frame a hop (frameLength_pos op)
    _ = some (ctrl a op.rw) := by rw [← List.head?_eq_getElem?, encode_head?]

/-! ### The formula and the fields of the control byte -/

/-- R130 as the source writes it: the 8-bit shifts lose no bit (R132). -/
theorem ctrl_toNat_or (a : HwAddr) (rw : BitVec 1) :
    (ctrl a rw).toNat = (0b0100 <<< 4) ||| (a.toNat <<< 1) ||| rw.toNat := by
  have address : a.toNat <<< 1 < 2 ^ 8 := by rw [Nat.shiftLeft_eq]; omega
  have bit : rw.toNat < 2 ^ 8 := by omega
  rw [ctrl, BitVec.toNat_or, BitVec.toNat_or, BitVec.toNat_shiftLeft, BitVec.toNat_shiftLeft,
    BitVec.toNat_setWidth_of_le (by decide), BitVec.toNat_setWidth_of_le (by decide),
    BitVec.toNat_setWidth_of_le (by decide), Nat.mod_eq_of_lt address]
  rfl

/-- Settles O1: the two forms of the formula; the bounds are those of R87, and the listed values compute. -/
theorem controlByteFormula : Obligations.ControlByteFormula := by
  refine ⟨fun a rw => ⟨ctrl_toNat_or a rw, ctrl_toNat a rw, (exists_ctrl_eq_iff _).1 ⟨a, rw, rfl⟩⟩,
    fun _ _ => rfl, fun _ _ => rfl, ?_⟩
  decide

/-- The bits of a field of the control byte, as digits of the sum form. -/
theorem ctrl_extractLsb'_toNat (a : HwAddr) (rw : BitVec 1) (start len : Nat) :
    ((ctrl a rw).extractLsb' start len).toNat = (0x40 + 2 * a.toNat + rw.toNat) / 2 ^ start % 2 ^ len := by
  rw [BitVec.extractLsb'_toNat, ctrl_toNat, Nat.shiftRight_eq_div_pow]

/-- R131: bits 7:4 are the fixed bits of the device family. -/
theorem ctrl_fixedBits (a : HwAddr) (rw : BitVec 1) : (ctrl a rw).extractLsb' 4 4 = Config.fixedBits := by
  apply BitVec.eq_of_toNat_eq
  rw [ctrl_extractLsb'_toNat, show Config.fixedBits.toNat = 4 from rfl]
  omega

/-- R131: bits 3:1 are the hardware address. -/
theorem addrOf_ctrl (a : HwAddr) (rw : BitVec 1) : addrOf (ctrl a rw) = a := by
  apply BitVec.eq_of_toNat_eq
  rw [addrOf, ctrl_extractLsb'_toNat]
  omega

/-- R131: bit 0 is the read/write bit. -/
theorem ctrl_bit_zero (a : HwAddr) (rw : BitVec 1) : (ctrl a rw).extractLsb' 0 1 = rw := by
  apply BitVec.eq_of_toNat_eq
  rw [ctrl_extractLsb'_toNat]
  omega

/-- Settles O2: the three digits of the sum form. -/
theorem controlByteFields : Obligations.ControlByteFields :=
  fun a rw => ⟨ctrl_fixedBits a rw, addrOf_ctrl a rw, ctrl_bit_zero a rw⟩

end Sys2Proof.Machine
end

section
/-! The untyped boundary (R91, R154): a reader answers a value exactly when the untyped one is that value written out,
and what a TRANSACT with an ill-formed operation is answered. -/

namespace Sys2Proof.Machine

/-! ### The readers, inverted -/

theorem byte?_eq_some {x : RawNum} {b : Byte} : byte? x = some b ↔ x = .int b.toNat := by
  refine ⟨fun h => ?_, fun h => h ▸ byte?_toNat b⟩
  cases x with
  | int z =>
    obtain ⟨hz, rfl⟩ := Option.ite_none_right_eq_some.1 h |>.imp_right Option.some.inj
    rw [BitVec.toNat_ofNat, Nat.mod_eq_of_lt (by omega), Int.toNat_of_nonneg hz.1]
  | notInteger => cases h

theorem count?_eq_some {x : RawNum} {n : Nat} : count? x = some n ↔ x = .int n := by
  refine ⟨fun h => ?_, fun h => by simp [h, count?]⟩
  cases x with
  | int z =>
    obtain ⟨hz, rfl⟩ := Option.ite_none_right_eq_some.1 h |>.imp_right Option.some.inj
    rw [Int.toNat_of_nonneg hz]
  | notInteger => cases h

theorem bytes?_eq_some {d : List RawNum} {bs : List Byte} :
    bytes? d = some bs ↔ d = bs.map fun b => .int b.toNat := by
  refine ⟨fun h => ?_, fun h => h ▸ bytes?_toNat bs⟩
  induction d generalizing bs with
  | nil => cases h; rfl
  | cons x xs ih =>
    rw [bytes?] at h
    split at h
    next b rest hx hs =>
      cases h
      rw [List.map_cons, byte?_eq_some.1 hx, ih hs]
    next => cases h

/-- R154: an untyped operation is read as `i` exactly when it is `i` written out. -/
theorem instr?_eq_some {op : RawOp} {i : Instr} : instr? op = some i ↔ op = .ofInstr i := by
  refine ⟨fun h => ?_, fun h => h ▸ instr?_ofInstr i⟩
  cases op with
  | read r n =>
    rw [instr?] at h
    split at h
    next r' n' hr hn =>
      cases h
      rw [byte?_eq_some.1 hr, count?_eq_some.1 hn, RawOp.ofInstr]
    next => cases h
  | write r d =>
    rw [instr?] at h
    split at h
    next r' d' hr hd =>
      cases h
      rw [byte?_eq_some.1 hr, bytes?_eq_some.1 hd, RawOp.ofInstr]
    next => cases h

/-- Settles O30: a well-formed operation is read as some typed one, and the reader inverts `ofInstr`. -/
theorem wellFormedOperationsAreTheTypedOnes : Obligations.WellFormedOperationsAreTheTypedOnes := by
  refine ⟨wellFormed_ofInstr, fun op hwf => ?_⟩
  obtain ⟨i, hi⟩ : ∃ i, instr? op = some i := by rwa [← Option.isSome_iff_exists, instr?_isSome]
  exact ⟨i, instr?_eq_some.1 hi, hi, fun j hj => Option.some.inj ((instr?_eq_some.2 hj).symm.trans hi)⟩

/-! ### The violations -/

/-- R154: the fields that a refusal may name of an operation are those out of their range. -/
theorem mem_badFields {op : RawOp} {f : OperandField} : f ∈ badFields op ↔ OutOfRange op f := by
  cases op with
  | read r n => cases f <;> simp [badFields, byte?_isSome, count?_isSome, OutOfRange]
  | write r d => cases f <;> simp [badFields, byte?_isSome, bytes?_isSome, OutOfRange]

/-- The violations, without the recursion over the index. -/
theorem violationsFrom_eq_flatMap (k : Nat) (raw : List RawOp) :
    violationsFrom k raw = (raw.zipIdx k).flatMap fun p => (badFields p.1).map fun f => (p.2, f) := by
  induction raw generalizing k with
  | nil => rfl
  | cons op rest ih => rw [violationsFrom, ih, List.zipIdx_cons, List.flatMap_cons]

/-- R154: what an `OperandRange` refusal of an operation list may name. -/
theorem mem_violationsFrom_zero {raw : List RawOp} {index : Nat} {f : OperandField} :
    (index, f) ∈ violationsFrom 0 raw ↔ ∃ op, raw[index]? = some op ∧ OutOfRange op f := by
  simp [violationsFrom_eq_flatMap, List.mem_zipIdx_iff_getElem?, mem_badFields]

theorem violationsFrom_ne_nil {raw : List RawOp} (h : ∃ op ∈ raw, op.wellFormed = false) (k : Nat) :
    violationsFrom k raw ≠ [] := fun hnil => by
  obtain ⟨op, hop, hbad⟩ := h
  have hgood : op.wellFormed = true := (violationsFrom_eq_nil k raw).1 hnil op hop
  simp [hbad] at hgood

/-- R154, R164: an offer with violations is refused, naming one of them; the draw is the model's own (log entry 4). -/
theorem step_transact_illFormed {s : State} {rest : List HostEvent} {raw : List RawOp}
    (arrives : Arrives (.transact raw) rest s) (usable : s.life = .usable) (idle : s.phase = .idle)
    (illFormed : ∃ op ∈ raw, op.wellFormed = false) :
    ∃ named ∈ violationsFrom 0 raw, step s = .next { s with
      host := rest
      draws := s.draws + 1
      replies := s.replies ++ [.refused (.operandRange named.1 named.2)] } := by
  obtain ⟨v, vs, hv⟩ := List.exists_cons_of_ne_nil (violationsFrom_ne_nil illFormed 0)
  refine ⟨namedViolation s.draws v vs, hv ▸ namedViolation_mem s.draws v vs, ?_⟩
  rw [step_arrives arrives]
  simp only [submitCommand, execTransact, usable, idle, hv]
  rfl

/-- Settles O32: the violation that the refusal names is one there is, so its field is out of range. -/
theorem illFormedOperationRefusesTransaction : Obligations.IllFormedOperationRefusesTransaction := by
  intro s rest raw arrives usable idle illFormed
  obtain ⟨⟨index, field⟩, hnamed, hstep⟩ := step_transact_illFormed arrives usable idle illFormed
  obtain ⟨op, hop, hfield⟩ := mem_violationsFrom_zero.1 hnamed
  exact ⟨index, field, op, s.draws + 1, hop, hfield, hstep⟩

end Sys2Proof.Machine
end

section
/-! No step from a well-kept state stops: the decode walk finds the window of every operation it fetches (R40). -/

namespace Sys2Proof.Machine

variable {s : State}

/-- R35, R40: every operation fetched in the decode walk has a recorded window. -/
theorem Inv.exists_window (h : Inv s) (hp : s.phase = .decode) {i : Instr} (hf : fetch? s = some i) :
    ∃ w, s.win[s.k]? = some w := by
  obtain ⟨-, framed, -, -⟩ := h.decoding hp
  exact ⟨_, (framed.window_at hf).1⟩

theorem Inv.exists_codecStep (h : Inv s) : ∃ s', codecStep s = .next s' := by
  cases hp : s.phase with
  | idle => exact ⟨s, by simp [codecStep, hp]⟩
  | transfer => exact ⟨_, codecStep_transfer hp⟩
  | encode =>
    cases hf : fetch? s with
    | none => exact ⟨_, codecStep_encode_end hp hf⟩
    | some i => exact ⟨_, codecStep_encode_operation hp hf⟩
  | decode =>
    cases hf : fetch? s with
    | none => exact ⟨_, codecStep_decode_end hp hf⟩
    | some i =>
      obtain ⟨w, hw⟩ := h.exists_window hp hf
      exact ⟨_, codecStep_decode_operation hp hf hw⟩

/-- Settles O57: a command is always answered, and on the codec's turn its own step goes through. -/
theorem noStepStopsWhileBooksAreKept : Obligations.NoStepStopsWhileBooksAreKept := by
  intro s h
  obtain ⟨c, rest, -, ht⟩ | ⟨-, ht⟩ | ⟨rest, -, ht⟩ := step_turn s <;> rw [ht]
  · exact ⟨_, rfl⟩
  · exact h.exists_codecStep
  · exact (h.with_channels ..).exists_codecStep

end Sys2Proof.Machine
end

section
/-! READ and WRITE: the bytes of their frames and their results (R140 to R152), and the headers in a batch. -/

namespace Sys2Proof.Machine

/-! ### Frames -/

/-- R140 framing, with the operation's bit and the filler written out. -/
theorem encode_read (a : HwAddr) (r : RegAddr) (n : Nat) :
    encode a (.read r n) = [ctrl a 1#1, r] ++ List.replicate n 0xFF#8 := rfl

/-- R141 framing, with the operation's bit written out. -/
theorem encode_write (a : HwAddr) (r : RegAddr) (d : List Byte) :
    encode a (.write r d) = [ctrl a 0#1, r] ++ d := rfl

/-- R146: byte 0 of a frame. -/
theorem encode_getElem?_zero (a : HwAddr) (i : Instr) : (encode a i)[0]? = some (ctrl a i.rw) := by
  rw [← List.head?_eq_getElem?, encode_head?]

/-- R85, R146: byte 1 of a frame. -/
theorem encode_getElem?_one (a : HwAddr) (i : Instr) : (encode a i)[1]? = some i.registerAddress := by
  cases i <;> rfl

/-- Past the two header bytes stands the payload. -/
theorem getElem?_header_append (c r : Byte) (payload : List Byte) (j : Nat) :
    ([c, r] ++ payload)[2 + j]? = payload[j]? := by
  rw [Nat.add_comm]; rfl

/-- Settles O4: a frame is as long as its window, whose length is `2 + payloadLength` by definition (R82). -/
theorem frameLengthIsTwoPlusPayload : Obligations.FrameLengthIsTwoPlusPayload :=
  ⟨encode_length, fun a r n => encode_length a (.read r n), fun a r d => encode_length a (.write r d)⟩

/-- Settles O5: the frame is header and data, and byte `2 + j` lies past the header. -/
theorem writePayloadIsLiteral : Obligations.WritePayloadIsLiteral :=
  fun a r d => ⟨encode_write a r d, getElem?_header_append _ r d⟩

/-- Settles O6: byte `2 + i` of the frame is filler byte `i`. -/
theorem readPayloadIsFiller : Obligations.ReadPayloadIsFiller := by
  intro a r n j hlow hhigh
  obtain ⟨i, rfl⟩ := Nat.exists_eq_add_of_le hlow
  rw [encode_read, getElem?_header_append, List.getElem?_replicate_of_lt (by omega)]

/-! ### Results -/

/-- R147: the result of a READ is what follows the two header bytes of its slice. -/
theorem parse_read (r : RegAddr) (n : Nat) (sl : List Byte) : parse (.read r n) sl = .bytes (sl.drop 2) := rfl

/-- R148: a WRITE has no result, whatever the slice. -/
theorem parse_write (r : RegAddr) (d sl : List Byte) : parse (.write r d) sl = .absent := rfl

/-- Settles O19: dropping the two header bytes leaves `n` of `2 + n`. -/
theorem resultLengthIsPayloadLength : Obligations.ResultLengthIsPayloadLength := by
  refine ⟨fun r n sl hlen => ?_, parse_write⟩
  have hn : (sl.drop 2).length = n := by rw [List.length_drop, hlen, Nat.add_sub_cancel_left]
  exact ⟨_, parse_read r n sl, hn, hn⟩

/-- Settles O20: the last `n` of `2 + n` bytes begin at index 2. -/
theorem skipTwoAgreesWithLastN : Obligations.SkipTwoAgreesWithLastN := by
  intro r n sl hlen
  have hskip : sl.length - n = 2 := by omega
  exact ⟨hskip ▸ parse_read r n sl, parse_read r n sl⟩

/-- Settles O12: the framing of R140; the bytes past the header are all `n` of the slice. -/
theorem readOperation : Obligations.ReadOperation := by
  refine ⟨fun r n => ⟨fun a => encode_read a r n, fun sl hlen => ?_⟩, rfl, rfl⟩
  rw [parse_read, slice, List.take_of_length_le (by rw [List.length_drop]; omega)]

/-- Settles O13: the framing of R141; no slice is read. -/
theorem writeOperation : Obligations.WriteOperation :=
  ⟨fun r d => ⟨fun a => encode_write a r d, parse_write r d⟩, rfl⟩

/-- Settles O21: a frame without payload is its header, and a slice of two bytes has nothing past it. -/
theorem zeroLengthOperations : Obligations.ZeroLengthOperations :=
  fun a r _ x y =>
    ⟨encode_read a r 0, rfl, parse_read r 0 [x, y], rfl, encode_write a r [], rfl, parse_write r [] [x, y]⟩

/-! ### Headers in a batch -/

/-- The bytes at the window of an operation are those of its frame. -/
theorem outbound_getElem?_of_window (a : HwAddr) {ops : List Instr} {k j : Nat} {op : Instr} {w : Window}
    (hop : ops[k]? = some op) (hw : (windowsFrom 0 ops)[k]? = some w) (hj : j < op.frameLength) :
    (outbound a ops)[w.offset + j]? = (encode a op)[j]? := by
  rw [window_offset hw, outbound_getElem?_of_frame a hop hj]

theorem one_lt_frameLength (i : Instr) : 1 < i.frameLength := Nat.le_add_right 2 _

/-- Settles O18: a frame's first two bytes; the one transfer carries `outbound`, which holds them at each window. -/
theorem everyFrameCarriesItsHeader : Obligations.EveryFrameCarriesItsHeader := by
  refine ⟨fun a i => ⟨encode_getElem?_zero a i, encode_getElem?_one a i⟩, fun s ops answer =>
    ⟨outbound s.cfg.hardwareAddress ops, rfl, fun k op w hop hw => ⟨?_, ?_⟩⟩⟩
  · exact (outbound_getElem?_of_window _ hop hw (frameLength_pos op)).trans (encode_getElem?_zero _ op)
  · exact (outbound_getElem?_of_window _ hop hw (one_lt_frameLength op)).trans (encode_getElem?_one _ op)

end Sys2Proof.Machine
end

section
/-! The operations in the two walks, on any state (R176, R180): what they complete with, and where they stop. -/

namespace Sys2Proof.Machine

variable {s : State}

/-- R176: in the encode walk an operation appends its frame. -/
theorem exec_encode (hp : s.phase = .encode) (i : Instr) :
    exec i s = .next (appendFrame (encode s.cfg.hardwareAddress i) s) := by
  rw [exec_eq_operate, operate_encode hp]

/-- R180: in the decode walk an operation appends the result from its window. -/
theorem exec_decode (hp : s.phase = .decode) {w : Window} (hw : s.win[s.k]? = some w) (i : Instr) :
    exec i s = .next (appendResult (parse i (memRead s.inb w)) s) := by
  rw [exec_eq_operate, operate_decode hp hw]

theorem exec_outside_walks (hp : s.phase = .idle ∨ s.phase = .transfer) (i : Instr) :
    exec i s = .refused .noWalkInProgress := by
  rw [exec_eq_operate]
  rcases hp with hp | hp <;> simp [operate, hp]

theorem exec_without_window (hp : s.phase = .decode) (hw : s.win.length ≤ s.k) (i : Instr) :
    exec i s = .fault .noWindowRecorded := by
  rw [exec_eq_operate]
  simp [operate, hp, hw]

/-- Settles O17: `operate_next` names the two walks in which an operation completes, and in each it does. -/
theorem operationCompletesExactlyInItsWalks : Obligations.OperationCompletesExactlyInItsWalks := by
  intro i s
  refine ⟨⟨?_, ?_⟩, fun hp => exec_outside_walks hp i, fun hp hw => exec_without_window hp hw i⟩
  · rintro ⟨s', h⟩
    rw [exec_eq_operate] at h
    obtain ⟨hp, -⟩ | ⟨hp, w, hw, -⟩ := operate_next h
    · exact .inl hp
    · exact .inr ⟨hp, (List.getElem?_eq_some_iff.1 hw).1⟩
  · rintro (hp | ⟨hp, hk⟩)
    · exact ⟨_, exec_encode hp i⟩
    · exact ⟨_, exec_decode hp (List.getElem?_eq_getElem hk) i⟩

/-- The state after an encode step, with the frame's length written out. -/
theorem appendFrame_encode (i : Instr) (s : State) :
    appendFrame (encode s.cfg.hardwareAddress i) s = { s with
      win := s.win ++ [⟨s.off, i.frameLength⟩]
      out := s.out ++ encode s.cfg.hardwareAddress i
      off := s.off + i.frameLength
      k := s.k + 1 } := by
  rw [appendFrame, encode_length]

/-- A slice of `2 + n` elements has exactly `n` past its first two, however long a slice was asked for. -/
theorem drop_two_slice {α : Type} {l : List α} {o m n : Nat} (h : (slice l o m).length = 2 + n) :
    (slice l o m).drop 2 = slice l (o + 2) n := by
  rw [slice, List.length_take, List.length_drop] at h
  rw [slice, slice, List.drop_take, List.drop_drop, List.take_eq_take_iff, List.length_drop]
  omega

/-- Settles O14: the frame of R140, and the payload bytes past the header of a slice of `2 + n` bytes. -/
theorem readInEachWalk : Obligations.ReadInEachWalk := by
  refine fun r n s => ⟨fun hp => ?_, fun w hp hw hlen => ?_⟩
  · rw [exec_encode hp, appendFrame_encode, encode_read]
    rfl
  · rw [exec_decode hp hw, memRead, parse_read, drop_two_slice hlen]
    rfl

/-- Settles O15: the frame of R141, and no result whatever the slice. -/
theorem writeInEachWalk : Obligations.WriteInEachWalk := by
  refine fun r d s => ⟨fun hp => ?_, fun w hp hw => ?_⟩
  · rw [exec_encode hp, appendFrame_encode, encode_write]
    rfl
  · rw [exec_decode hp hw, parse_write]
    rfl

end Sys2Proof.Machine
end

section
/-! The codec's turn: the step of each phase from its exact state (R176 to R181), and a placed table word. -/

namespace Sys2Proof.Machine

variable {s t : State}

theorem CodecTurn.step_eq (turn : CodecTurn s t) : step s = codecStep t := by
  obtain ⟨hw, rfl⟩ | ⟨rest, hh, rfl⟩ := turn
  · exact step_waits hw
  · exact step_quiet hh

/-- In either walk the codec executes the operation at the cursor. -/
theorem codecStep_operation (hp : t.phase = .encode ∨ t.phase = .decode) {i : Instr} (hf : fetch? t = some i) :
    codecStep t = exec i t := by
  rcases hp with hp | hp <;> simp [codecStep, hp, hf]

/-- Settles O22: on its turn the codec fetches from `OPS` at the cursor. -/
theorem stepRunsOperationAtCursor : Obligations.StepRunsOperationAtCursor :=
  fun _ _ _ turn hp hf => turn.step_eq.trans (codecStep_operation hp hf)

theorem fetch?_of_k_eq_length (hk : t.k = t.ops.length) : fetch? t = none :=
  List.getElem?_eq_none_iff.2 hk.ge

/-- Settles O35: the end of the encode walk is `encodeDone`. -/
theorem encodedTransactionIsRequestedOnce : Obligations.EncodedTransactionIsRequestedOnce :=
  fun _ _ turn hp hk => turn.step_eq.trans (codecStep_encode_end hp (fetch?_of_k_eq_length hk))

/-- Settles O41: the end of the decode walk is `decodeDone`. -/
theorem resultsAreDelivered : Obligations.ResultsAreDelivered :=
  fun _ _ turn hp hk => turn.step_eq.trans (codecStep_decode_end hp (fetch?_of_k_eq_length hk))

theorem awaitAnswer_failure {e : PrimitiveError} {more : List BusAnswer} (hb : t.bus = .failure e :: more) :
    awaitAnswer t = transferFail e { t with bus := more } := by
  rw [awaitAnswer, hb]

theorem awaitAnswer_sequence {inb : List Byte} {more : List BusAnswer} (hb : t.bus = .sequence inb :: more) :
    awaitAnswer t = transferReturn inb { t with bus := more } := by
  rw [awaitAnswer, hb]

/-- Settles O38: the failure is `transferFail`, which raises a transport error. -/
theorem primitiveFailureEndsTransaction : Obligations.PrimitiveFailureEndsTransaction := by
  intro s t e more turn hp hb
  rw [turn.step_eq, codecStep_transfer hp, awaitAnswer_failure hb]
  rfl

/-- Settles O39: the length check of R167 fails. -/
theorem lengthMismatchEndsTransaction : Obligations.LengthMismatchEndsTransaction := by
  intro s t inb more turn hp hb hlen
  rw [turn.step_eq, codecStep_transfer hp, awaitAnswer_sequence hb, transferReturn, if_neg hlen]
  rfl

/-- Settles O40: the length check of R167 passes. -/
theorem matchingAnswerStartsDecoding : Obligations.MatchingAnswerStartsDecoding := by
  intro s t inb more turn hp hb hlen
  rw [turn.step_eq, codecStep_transfer hp, awaitAnswer_sequence hb, transferReturn, if_pos hlen]

/-! ### A placed table word -/

/-- R81, R87: a control byte of either opcode is that of its own address bits, with the opcode's bit 0. -/
theorem ctrl_addrOf_of_kindOf (c : Byte) :
    (kindOf c = some .read → ctrl (addrOf c) Config.rwRead = c) ∧
      (kindOf c = some .write → ctrl (addrOf c) Config.rwWrite = c) := by
  revert c; decide

/-- What the decoder reads as the codec's own output is the frame of what it reads. -/
theorem encode_of_decodeFrame {bytes : List Byte} {f : Frame} (h : decodeFrame .codecOutput bytes = .ok f) :
    encode f.addr f.instr = bytes := by
  match bytes with
  | [] => cases h
  | [_] => cases h
  | c :: r :: payload =>
    cases hk : kindOf c with
    | none => simp [decodeFrame, hk] at h
    | some kind =>
      cases kind with
      | write =>
        obtain rfl : ⟨addrOf c, .write r payload⟩ = f := by simpa [decodeFrame, hk] using h
        simp [encode, writeFrame, (ctrl_addrOf_of_kindOf c).2 hk]
      | read =>
        obtain ⟨hfill, rfl⟩ : (∀ x ∈ payload, x = Config.filler) ∧ ⟨addrOf c, .read r payload.length⟩ = f := by
          simpa [decodeFrame, hk, ite_eq_iff] using h
        simp [encode, readFrame, (ctrl_addrOf_of_kindOf c).1 hk, ← List.eq_replicate_of_mem hfill]

theorem exists_decodeTableFrame {nbits w : Nat} {i : Instr} (h : decodeTableWord nbits w = some i) :
    ∃ a, decodeTableFrame nbits w = some ⟨a, i⟩ := by
  obtain ⟨⟨a, _⟩, hf, rfl⟩ := Option.map_eq_some_iff.1 h
  exact ⟨a, hf⟩

theorem encode_of_decodeTableFrame {nbits w : Nat} {f : Frame} (h : decodeTableFrame nbits w = some f) :
    encode f.addr f.instr = tableBytes nbits w := by
  rw [decodeTableFrame] at h
  split at h
  next g hg => cases h; exact encode_of_decodeFrame hg
  next => cases h

/-- The loaded frame's operation is at the cursor of the encode walk, and no command arrives. -/
theorem step_loadFrame (f : Frame) (s : State) : step (loadFrame f s) = exec f.instr (loadFrame f s) :=
  (step_waits rfl).trans (codecStep_operation (.inl rfl) rfl)

/-- Settles O23: the placed operation is fetched, and its frame is the word's bytes. -/
theorem placedWordRunsNext : Obligations.PlacedWordRunsNext := by
  intro s nbits w i h
  obtain ⟨a, hf⟩ := exists_decodeTableFrame h
  have placed : s.withFetchWord nbits w = loadFrame ⟨a, i⟩ s := by rw [State.withFetchWord, hf]
  rw [placed]
  exact ⟨step_loadFrame _ s, _, (step_loadFrame _ s).trans (exec_encode rfl i), encode_of_decodeTableFrame hf⟩

end Sys2Proof.Machine
end

section
/-! TRANSACT offered to the codec: acceptance and the refusals in their order (R163, R164, R175). -/

namespace Sys2Proof.Machine

section
variable {s : State} {rest : List HostEvent} {raw : List RawOp} (arrives : Arrives (.transact raw) rest s)
include arrives

theorem step_transact_notUsable (unusable : s.life ≠ .usable) :
    step s = .next { s with host := rest, replies := s.replies ++ [.refused .notUsable] } := by
  rw [step_arrives arrives]
  simp [submitCommand, execTransact, unusable, refuse, reply]

variable (usable : s.life = .usable)
include usable

theorem step_transact_busy (inFlight : s.phase ≠ .idle) :
    step s = .next { s with host := rest, replies := s.replies ++ [.refused .busy] } := by
  rw [step_arrives arrives]
  simp [submitCommand, execTransact, usable, inFlight, refuse, reply]

end

section
variable {s : State} {rest : List HostEvent} {ops : List Instr}
variable (arrives : Arrives (.transact (ops.map .ofInstr)) rest s) (usable : s.life = .usable) (idle : s.phase = .idle)
include arrives usable idle

theorem step_transact_tooLong {m : Nat} (bound : s.maxTxnBytes = some m) (long : m < totalLength ops) :
    step s = .next { s with
      host := rest, replies := s.replies ++ [.refused (.transactionTooLong (totalLength ops))] } := by
  have exceeds : tooLong s.maxTxnBytes (totalLength ops) = true := by simpa [tooLong, bound] using long
  rw [step_arrives arrives]
  simp only [submitCommand, execTransact, usable, idle, violationsFrom_ofInstr, filterMap_ofInstr, exceeds]
  rfl

theorem step_transact_fits (fits : Fits s.maxTxnBytes ops) :
    step s = .next (submit ops { s with host := rest }) :=
  (step_arrives arrives).trans (congrArg _ (execTransact_typed ops usable idle (not_tooLong_of_fits fits)))

end

/-- Settles O33: the three refusals, the lifecycle judged before the phase and both before the length. -/
theorem transactRefusalOrder : Obligations.TransactRefusalOrder := by
  refine fun s rest raw arrives => ⟨step_transact_notUsable arrives, step_transact_busy arrives, ?_⟩
  rintro m ops usable idle rfl bound long
  exact step_transact_tooLong arrives usable idle bound long

/-- Settles O31: what fits is submitted. -/
theorem acceptedTransactionIsCaptured : Obligations.AcceptedTransactionIsCaptured :=
  fun _ _ _ arrives usable idle fits => step_transact_fits arrives usable idle fits

end Sys2Proof.Machine
end

section
/-! What a step sends on the channels: transfer requests (R165) and, while a transaction is in flight, answers to the
host (R185). -/

namespace Sys2Proof.Machine

variable {s s' : State}

/-- A step is the submission of a command that arrives, or the codec's own, with the host's event used up. -/
theorem step_next (h : step s = .next s') :
    (∃ c rest, Arrives c rest s ∧ s' = submitCommand c { s with host := rest }) ∨
      ∃ host, codecStep { s with host := host } = .next s' := by
  obtain ⟨c, rest, ha, hs⟩ | ⟨-, hs⟩ | ⟨rest, -, hs⟩ := step_turn s <;> rw [hs] at h
  · exact .inl ⟨c, rest, ha, (Host.Outcome.next.inj h).symm⟩
  · exact .inr ⟨s.host, h⟩
  · exact .inr ⟨rest, h⟩

/-! ### Requests -/

theorem submitCommand_requests (c : Command) (s : State) : (submitCommand c s).requests = s.requests := by
  cases c with
  | construct hw b hd =>
    obtain ⟨-, h⟩ | ⟨-, -, h⟩ | ⟨-, -, -, h⟩ | ⟨-, -, _, _, -, -, h⟩ | ⟨-, -, _, -, -, h⟩ :=
      execConstruct_cases hw b hd s <;> simp [submitCommand, h, warnExtraFlags_eq]
  | transact raw =>
    obtain ⟨-, h⟩ | ⟨-, -, h⟩ | ⟨-, -, _, _, -, h⟩ | ⟨-, -, -, -, h⟩ | ⟨-, -, -, -, h⟩ := execTransact_cases raw s <;>
      simp [submitCommand, h]

theorem awaitAnswer_requests (s : State) : (awaitAnswer s).requests = s.requests := by
  obtain ⟨-, h⟩ | ⟨_, _, -, -, h⟩ | ⟨_, _, -, -, h⟩ | ⟨_, _, -, h⟩ := awaitAnswer_cases s <;> simp [h]

/-- An operation touches neither the outward channels nor the phase. -/
theorem exec_keeps_channels {i : Instr} (h : exec i s = .next s') :
    s'.phase = s.phase ∧ s'.requests = s.requests ∧ s'.replies = s.replies := by
  rw [exec_eq_operate] at h
  obtain ⟨-, rfl⟩ | ⟨-, w, -, rfl⟩ := operate_next h
  · exact ⟨rfl, rfl, rfl⟩
  · exact ⟨rfl, rfl, rfl⟩

/-- Settles O36: of the codec's steps only `encodeDone` requests a transfer, and a command requests none. -/
theorem transferOnlyAtEndOfEncoding : Obligations.TransferOnlyAtEndOfEncoding := by
  intro s s' h
  obtain ⟨c, rest, -, rfl⟩ | ⟨host, h⟩ := step_next h
  · exact .inl (submitCommand_requests c _)
  obtain ⟨-, rfl⟩ | ⟨hp, hf, rfl⟩ | ⟨-, rfl⟩ | ⟨-, -, rfl⟩ | ⟨-, i, -, hi⟩ := codecStep_cases h
  · exact .inl rfl
  · exact .inr ⟨hp, List.getElem?_eq_none_iff.1 hf, rfl, rfl⟩
  · exact .inl (awaitAnswer_requests _)
  · exact .inl rfl
  · obtain ⟨-, hrequests, -⟩ := exec_keeps_channels hi
    exact .inl hrequests

/-! ### Answers of a transaction in flight -/

/-- What a step says to the host of a transaction in flight: its end comes with all results or with one transport
error, and before that there is nothing or a `Busy` to tell. -/
def ToldWhole (s s' : State) : Prop :=
  (s'.phase = .idle →
    (∃ rs, s'.replies = s.replies ++ [.results rs] ∧ rs.length = s.ops.length) ∨
    ∃ e, s'.replies = s.replies ++ [.error (.transport e)]) ∧
  (s'.phase ≠ .idle → s'.replies = s.replies ∨ s'.replies = s.replies ++ [.refused .busy])

theorem toldWhole_of_inFlight (hp : s'.phase ≠ .idle)
    (hr : s'.replies = s.replies ∨ s'.replies = s.replies ++ [.refused .busy]) : ToldWhole s s' :=
  ⟨fun h => absurd h hp, fun _ => hr⟩

theorem toldWhole_of_ended (hp : s'.phase = .idle)
    (hr : (∃ rs, s'.replies = s.replies ++ [.results rs] ∧ rs.length = s.ops.length) ∨
      ∃ e, s'.replies = s.replies ++ [.error (.transport e)]) : ToldWhole s s' :=
  ⟨fun _ => hr, fun h => absurd hp h⟩

/-- R182, R234, log entry 5: whichever command it is, it is refused as `Busy`. -/
theorem submitCommand_inFlight (usable : s.life = .usable) (inFlight : s.phase ≠ .idle) (c : Command) :
    submitCommand c s = refuse .busy s := by
  cases c with
  | construct hw b hd => simp [submitCommand, execConstruct, inFlight]
  | transact raw => simp [submitCommand, execTransact, usable, inFlight]

theorem awaitAnswer_toldWhole (hp : s.phase ≠ .idle) : ToldWhole s (awaitAnswer s) := by
  obtain ⟨-, h⟩ | ⟨_, _, -, -, h⟩ | ⟨_, _, -, -, h⟩ | ⟨_, _, -, h⟩ := awaitAnswer_cases s <;> rw [h]
  · exact toldWhole_of_inFlight hp (.inl rfl)
  · exact toldWhole_of_inFlight nofun (.inl rfl)
  · exact toldWhole_of_ended rfl (.inr ⟨_, rfl⟩)
  · exact toldWhole_of_ended rfl (.inr ⟨_, rfl⟩)

/-- R40 at the end of the decode walk: `RES` has one entry for each operation. -/
theorem Inv.length_res_of_decoded (h : Inv s) (hp : s.phase = .decode) (hf : fetch? s = none) :
    s.res.length = s.ops.length := by
  obtain ⟨-, -, -, hres⟩ := h.decoding hp
  have hk : s.ops.length ≤ s.k := List.getElem?_eq_none_iff.1 hf
  simp [hres, hk]

theorem codecStep_toldWhole (h : Inv s) (hp : s.phase ≠ .idle) (hs : codecStep s = .next s') : ToldWhole s s' := by
  obtain ⟨hidle, -⟩ | ⟨-, -, rfl⟩ | ⟨-, rfl⟩ | ⟨hdec, hf, rfl⟩ | ⟨-, i, -, hi⟩ := codecStep_cases hs
  · exact absurd hidle hp
  · exact toldWhole_of_inFlight nofun (.inl rfl)
  · exact awaitAnswer_toldWhole hp
  · exact toldWhole_of_ended rfl (.inl ⟨_, rfl, h.length_res_of_decoded hdec hf⟩)
  · obtain ⟨hphase, -, hreplies⟩ := exec_keeps_channels hi
    exact toldWhole_of_inFlight (hphase ▸ hp) (.inl hreplies)

/-- Settles O43: a command that arrives is told `Busy`, and the codec's own steps tell the outcome whole. -/
theorem noPartialOutcome : Obligations.NoPartialOutcome := by
  intro s s' h hs hp
  obtain ⟨c, rest, -, rfl⟩ | ⟨host, hs⟩ := step_next hs
  · rw [submitCommand_inFlight (s := { s with host := rest }) (h.gated hp) hp]
    exact toldWhole_of_inFlight hp (.inr rfl)
  · exact codecStep_toldWhole (s := { s with host := host }) (h.with_channels ..) hp hs

end Sys2Proof.Machine
end

section
/-! The atomic command: the bytes it transmits (R161, R162), the results it makes of the answer (R170 to R173), and
the micro-steps that end in its outcome (R168, R171, R182). -/

namespace Sys2Proof.Machine

/-! ### The outbound bytes -/

/-- R162: the total length, headers and payloads apart. -/
theorem totalLength_eq_headers_add_payloads (ops : List Instr) :
    totalLength ops = 2 * ops.length + (ops.map Instr.payloadLength).sum := by
  rw [totalLength_eq_sum, List.sum_map_add, List.map_const', List.sum_replicate, smul_eq_mul, Nat.mul_comm]

/-- Settles O45: the window clauses are those of R54, read off the outbound sequence itself. -/
theorem encodedTransactionIsConcatenation : Obligations.EncodedTransactionIsConcatenation := by
  intro s ops answer
  obtain ⟨hcount, hwindow, -⟩ := windowsPartitionTheByteRange s.cfg.hardwareAddress ops
    (outbound s.cfg.hardwareAddress ops) rfl
  refine ⟨outbound s.cfg.hardwareAddress ops, rfl, List.flatMap_def .., hcount, fun k op hop => ?_, ?_⟩
  · obtain ⟨w, hw, hlen, hfirst, hnext, hlast, -⟩ := hwindow k op hop
    exact ⟨w, hw, hlen.trans (encode_length _ op).symm, hlen, hfirst, hnext, hlast⟩
  · rw [outbound_length, totalLength_eq_headers_add_payloads]

/-! ### The results -/

theorem transactReply_of_length {a : HwAddr} {ops : List Instr} {inb : List Byte}
    (h : inb.length = (outbound a ops).length) : transactReply a ops (.sequence inb) = .results (demux ops inb) :=
  if_pos h

theorem demux_write {ops : List Instr} {k : Nat} {r : RegAddr} {d : List Byte} (h : ops[k]? = some (.write r d))
    (inb : List Byte) : (demux ops inb)[k]? = some .absent := by
  rw [demux_getElem?, h, Option.map_some, parse_write]

theorem demux_read {ops : List Instr} {k : Nat} {r : RegAddr} {n : Nat} (h : ops[k]? = some (.read r n))
    (inb : List Byte) : (demux ops inb)[k]? = some (.bytes (slice inb (totalLength (ops.take k) + 2) n)) := by
  rw [demux_getElem?, h, Option.map_some, parse_read_window]

/-- The window of an operation ends within the byte range. -/
theorem totalLength_take_add_le {ops : List Instr} {k : Nat} {op : Instr} (h : ops[k]? = some op) :
    totalLength (ops.take k) + op.frameLength ≤ totalLength ops := by
  have hk : k + 1 ≤ ops.length := (List.getElem?_eq_some_iff.1 h).1
  simpa [totalLength_take_succ h] using totalLength_take_le ops hk

/-- An answer of the right length has all payload bytes of a READ. -/
theorem length_payload_slice {ops : List Instr} {k : Nat} {r : RegAddr} {n : Nat} (h : ops[k]? = some (.read r n))
    {inb : List Byte} (hlen : inb.length = totalLength ops) :
    (slice inb (totalLength (ops.take k) + 2) n).length = n := by
  have hend : totalLength (ops.take k) + (2 + n) ≤ totalLength ops := totalLength_take_add_le h
  rw [slice, List.length_take, List.length_drop]
  omega

/-- Settles O47: the results are those of `demux`, one for each operation. -/
theorem resultsMatchOperations : Obligations.ResultsMatchOperations := by
  intro a ops inb hlen
  refine ⟨demux ops inb, transactReply_of_length hlen, demux_length ops inb, fun k r d h => demux_write h inb,
    fun k r n h => ⟨_, demux_read h inb, ?_⟩⟩
  exact length_payload_slice h (hlen.trans (outbound_length a ops))

/-- Settles O48: the entry of a READ is a function of its payload bytes. -/
theorem readsReturnTheirPayloadWindow : Obligations.ReadsReturnTheirPayloadWindow := by
  intro a ops inb inb' hlen hlen'
  refine ⟨demux ops inb, demux ops inb', transactReply_of_length hlen, transactReply_of_length hlen',
    fun k r n h => ⟨demux_read h inb, ?_, fun hsame => ?_⟩⟩
  · exact length_payload_slice h (hlen.trans (outbound_length a ops))
  · rw [demux_read h inb, demux_read h inb', hsame]

/-- A window past the answer to the first part is one of the answer to the second. -/
theorem memRead_append_add (ix iy : List Byte) (o n : Nat) :
    memRead (ix ++ iy) ⟨ix.length + o, n⟩ = memRead iy ⟨o, n⟩ := by
  simp [memRead, slice]

/-- R172 for the results: each part's windows lie in its own part of the answer. -/
theorem demux_append {xs : List Instr} {ix : List Byte} (hx : ix.length = totalLength xs) (ys : List Instr)
    (iy : List Byte) : demux (xs ++ ys) (ix ++ iy) = demux xs ix ++ demux ys iy := by
  apply List.ext_getElem?
  intro k
  rw [demux_getElem?]
  by_cases hk : k < xs.length
  · rw [List.getElem?_append_left hk, List.take_append_of_le_length hk.le,
      List.getElem?_append_left (by rwa [demux_length]), demux_getElem?]
    refine Option.map_congr fun i hi => congrArg (parse i) ?_
    exact slice_append_below iy (hx ▸ totalLength_take_add_le hi)
  · obtain ⟨j, rfl⟩ := Nat.exists_eq_add_of_le (Nat.le_of_not_lt hk)
    rw [List.getElem?_append_right (by omega), List.take_length_add_append, totalLength_append, ← hx,
      List.getElem?_append_right (by rw [demux_length]; omega), demux_length, Nat.add_sub_cancel_left, demux_getElem?]
    exact Option.map_congr fun i _ => congrArg (parse i) (memRead_append_add ix iy _ _)

/-- Settles O50: the lengths add up, and the results are concatenated. -/
theorem batchResultsAreConcatenation : Obligations.BatchResultsAreConcatenation := by
  intro a xs ys ix iy hx hy
  refine ⟨demux xs ix, demux ys iy, transactReply_of_length hx, transactReply_of_length hy, ?_⟩
  rw [transactReply_of_length (by simp [outbound_append, hx, hy]), demux_append (hx.trans (outbound_length a xs))]

/-! ### From the TRANSACT of a serial host -/

/-- Settles O59: the atomic command's state, written out. -/
theorem microStepsAgreeWithAtomicCommand : Obligations.MicroStepsAgreeWithAtomicCommand :=
  fun _ _ _ _ _ h usable idle hhost serial hbus fits => transact_reaches_outcome h usable idle hhost serial hbus fits

/-- Settles O37: the atomic command answers a failure with that failure. -/
theorem primitiveFailureIsPropagated : Obligations.PrimitiveFailureIsPropagated := by
  intro s rest ops e more h usable idle hhost serial hbus fits
  obtain ⟨n, -, reached⟩ := transact_reaches_outcome h usable idle hhost serial hbus fits
  exact ⟨n, _, reached, rfl, rfl, rfl, rfl⟩

theorem fits_nil (limit : Option Nat) : Fits limit [] := fun m _ => Nat.zero_le m

/-- R171: the empty transaction is answered by what its empty transfer brings back. -/
theorem transactReply_nil (a : HwAddr) (inb : List Byte) : transactReply a [] (.sequence inb) =
    if inb = [] then .results [] else .error (.transport (.lengthMismatch 0 inb.length)) :=
  if_congr List.length_eq_zero_iff rfl rfl

/-- Settles O51: the outcome of the atomic command with no operation, whose outbound sequence is empty. -/
theorem emptyTransactionMakesOneTransfer : Obligations.EmptyTransactionMakesOneTransfer := by
  intro s rest inb more hhost serial h usable idle hbus
  obtain ⟨n, -, reached⟩ := transact_reaches_outcome (ops := []) h usable idle hhost serial hbus (fits_nil _)
  rw [transactAtomically, transactReply_nil] at reached
  exact ⟨n, reached⟩

end Sys2Proof.Machine
end

section
/-! The numbering of the causes (R191 to R193). -/

namespace Sys2Proof.Machine

/-- Settles O53: each clause is the equation of `code` at one constructor; what a cause records does not matter. -/
theorem causeCodes : Obligations.CauseCodes :=
  fun _ _ _ _ _ => ⟨rfl, rfl, rfl, rfl, rfl, rfl, rfl⟩

end Sys2Proof.Machine
end

section
/-! Commands that arrive during a transaction (R234), and the wait for a primitive that does not answer (R240). -/

namespace Sys2Proof.Machine

variable {s t : State}

theorem step_arrives_inFlight {c : Command} {rest : List HostEvent} (arrives : Arrives c rest s)
    (usable : s.life = .usable) (inFlight : s.phase ≠ .idle) :
    step s = .next (refuse .busy { s with host := rest }) :=
  (step_arrives arrives).trans (congrArg _ (submitCommand_inFlight (s := { s with host := rest }) usable inFlight c))

/-- Settles O34: `Busy` is a refusal, and a refusal only answers. -/
theorem commandInFlightIsBusy : Obligations.CommandInFlightIsBusy :=
  fun _ _ _ hhost inFlight usable => step_arrives_inFlight (.inl hhost) usable inFlight

/-! ### A silent primitive -/

/-- The codec's turn during the wait changes nothing. -/
theorem step_silent (turn : CodecTurn s t) (inTransfer : t.phase = .transfer) (silent : t.bus = []) :
    step s = .next t := by
  rw [turn.step_eq, codecStep_transfer inTransfer, awaitAnswer, silent]

/-- One `Busy` for each command that arrives among the events. -/
def busyReplies (events : List HostEvent) : List Reply :=
  List.replicate (overlapping events).length (.refused .busy)

theorem busyReplies_cons (e : HostEvent) (events : List HostEvent) :
    busyReplies (e :: events) = busyReplies [e] ++ busyReplies events := by
  cases e with
  | call c => rfl
  | overlap c => exact List.replicate_succ
  | quiet => rfl

theorem hostWaits_inFlight_iff (inFlight : s.phase ≠ .idle) :
    hostWaits s = true ↔ s.host = [] ∨ ∃ c rest, s.host = .call c :: rest := by
  cases hh : s.host with
  | nil => simp [hostWaits, hh]
  | cons e rest => cases e <;> simp [hostWaits, hh, inFlight]

/-- An event that is no waiting call is used up, and answered `Busy` if it is a command. -/
theorem step_silent_uses_up (inTransfer : s.phase = .transfer) (silent : s.bus = []) (usable : s.life = .usable)
    {e : HostEvent} {rest : List HostEvent} (hhost : s.host = e :: rest) (noCall : ∀ c, e ≠ .call c) :
    step s = .next { s with host := rest, replies := s.replies ++ busyReplies [e] } := by
  cases e with
  | call c => exact absurd rfl (noCall c)
  | overlap c => exact step_arrives_inFlight (.inl hhost) usable (by simp [inTransfer])
  | quiet =>
    simpa [busyReplies, overlapping] using step_silent (.inr ⟨rest, hhost, rfl⟩) inTransfer silent

/-- Settles O42, by induction on the number of steps: where the host waits the state stays as it is, and otherwise
the first event is used up. -/
theorem waitsForAnswerWithoutLimit : Obligations.WaitsForAnswerWithoutLimit := by
  intro n
  induction n with
  | zero => exact fun s _ _ _ => ⟨[], s.host, rfl, nofun, .inl rfl, by simp [Reaches.zero, overlapping]⟩
  | succ n ih =>
    intro s h inTransfer silent
    have inFlight : s.phase ≠ .idle := by simp [inTransfer]
    by_cases waits : hostWaits s = true
    · have stays : Reaches (n + 1) s s :=
        .iterate (f := fun _ => s) fun _ _ => step_silent (.inl ⟨waits, rfl⟩) inTransfer silent
      exact ⟨[], s.host, rfl, nofun, .inr ⟨Nat.succ_pos n, (hostWaits_inFlight_iff inFlight).1 waits⟩,
        by simpa [overlapping] using stays⟩
    · obtain ⟨hne, hcall⟩ := not_or.1 (mt (hostWaits_inFlight_iff inFlight).2 waits)
      obtain ⟨e, rest, hhost⟩ := List.exists_cons_of_ne_nil hne
      have noCall : ∀ c, e ≠ .call c := fun c he => hcall ⟨c, rest, he ▸ hhost⟩
      obtain ⟨consumed, left, hrest, hcalls, hcount, hreach⟩ :=
        ih { s with host := rest, replies := s.replies ++ busyReplies [e] } (h.with_channels ..) inTransfer silent
      refine ⟨e :: consumed, left, by simpa [hhost] using hrest, ?_, by simpa using hcount, ?_⟩
      · simpa [hcalls] using fun c he => noCall c he.symm
      · change Reaches _ s { s with host := left, replies := s.replies ++ busyReplies (e :: consumed) }
        rw [busyReplies_cons, ← List.append_assoc]
        exact .cons (step_silent_uses_up inTransfer silent (h.gated inFlight) hhost noCall) hreach

end Sys2Proof.Machine
end

section
/-! The decoder (log entry 18), one equation per outcome: it reads back every frame, and what it rejects. -/

namespace Sys2Proof.Machine

/-! ### The kind of a control byte -/

/-- R81, R87: bit 0 of the control byte is the opcode of a READ, on every address. -/
theorem kindOf_ctrl_read (a : HwAddr) : kindOf (ctrl a Config.rwRead) = some .read := by
  revert a; decide

/-- R81, R87: bit 0 of the control byte is the opcode of a WRITE, on every address. -/
theorem kindOf_ctrl_write (a : HwAddr) : kindOf (ctrl a Config.rwWrite) = some .write := by
  revert a; decide

/-- R90: a byte with a kind is the control byte of an instance, so it lies in `0x40 .. 0x4F`. -/
theorem kindOf_eq_none {c : Byte} (h : c.toNat < 0x40 ∨ 0x4F < c.toNat) : kindOf c = none := by
  have noCtrl : ∀ a rw, ctrl a rw ≠ c := fun a rw heq => by
    have := (exists_ctrl_eq_iff c).1 ⟨a, rw, heq⟩
    omega
  obtain ⟨ofRead, ofWrite⟩ := ctrl_addrOf_of_kindOf c
  cases hk : kindOf c with
  | none => rfl
  | some kind =>
    cases kind with
    | read => exact absurd (ofRead hk) (noCtrl _ _)
    | write => exact absurd (ofWrite hk) (noCtrl _ _)

/-! ### The outcomes of the decoder -/

section
variable {control : Byte} (rule : FillerRule) (reg : Byte) {payload : List Byte}

theorem decodeFrame_short {bytes : List Byte} (h : bytes.length < 2) :
    decodeFrame rule bytes = .error .tooShort := by
  match bytes with
  | [] => rfl
  | [_] => rfl
  | _ :: _ :: _ => simp at h

theorem decodeFrame_otherFamily (hk : kindOf control = none) (payload : List Byte) :
    decodeFrame rule (control :: reg :: payload) = .error (.notThisFamily control) := by
  simp [decodeFrame, hk]

theorem decodeFrame_write (hk : kindOf control = some .write) (payload : List Byte) :
    decodeFrame rule (control :: reg :: payload) = .ok ⟨addrOf control, .write reg payload⟩ := by
  simp [decodeFrame, hk]

/-- R92: a foreign trace may carry any filler. -/
theorem decodeFrame_read_foreignTrace (hk : kindOf control = some .read) (payload : List Byte) :
    decodeFrame .foreignTrace (control :: reg :: payload) = .ok ⟨addrOf control, .read reg payload.length⟩ := by
  simp [decodeFrame, hk]

/-- R145: a payload of filler passes under either rule. -/
theorem decodeFrame_read_filler (hk : kindOf control = some .read) (hp : ∀ x ∈ payload, x = Config.filler) :
    decodeFrame rule (control :: reg :: payload) = .ok ⟨addrOf control, .read reg payload.length⟩ := by
  cases rule with
  | foreignTrace => exact decodeFrame_read_foreignTrace reg hk payload
  | codecOutput => simpa [decodeFrame, hk] using hp

/-- R92: the codec's own output carries no other filler. -/
theorem decodeFrame_read_not_filler (hk : kindOf control = some .read) (hp : ∃ x ∈ payload, x ≠ Config.filler) :
    decodeFrame .codecOutput (control :: reg :: payload) = .error .fillerNotFF := by
  simpa [decodeFrame, hk] using hp

end

/-- Settles O8: the control byte gives the kind and the address back, and a READ's payload is filler. -/
theorem decodeOfEncodeIsTheInstruction : Obligations.DecodeOfEncodeIsTheInstruction := by
  intro rule a i
  cases i with
  | read r n =>
    have hp : ∀ x ∈ List.replicate n Config.filler, x = Config.filler := fun _ => List.eq_of_mem_replicate
    calc decodeFrame rule (encode a (.read r n))
        = .ok ⟨addrOf (ctrl a Config.rwRead), .read r (List.replicate n Config.filler).length⟩ :=
          decodeFrame_read_filler rule r (kindOf_ctrl_read a) hp
      _ = .ok ⟨a, .read r n⟩ := by rw [addrOf_ctrl, List.length_replicate]
  | write r d =>
    calc decodeFrame rule (encode a (.write r d))
        = .ok ⟨addrOf (ctrl a Config.rwWrite), .write r d⟩ := decodeFrame_write rule r (kindOf_ctrl_write a) d
      _ = .ok ⟨a, .write r d⟩ := by rw [addrOf_ctrl]

/-- Settles O9: the control byte is that of its own fields, and a READ's payload is as many fillers as it counts. -/
theorem encodeOfDecodeIsTheFrame : Obligations.EncodeOfDecodeIsTheFrame :=
  fun _ _ h => encode_of_decodeFrame h

/-- Settles O10: the rejections of the decoder, and the one filler rule that accepts any payload. -/
theorem decoderRejectsByName : Obligations.DecoderRejectsByName := by
  refine ⟨fun rule _ h => decodeFrame_short rule h,
    fun rule _ r p h => decodeFrame_otherFamily rule r (kindOf_eq_none h) p, fun a r p hp => ⟨?_, ?_⟩⟩
  · exact decodeFrame_read_not_filler r (kindOf_ctrl_read a) hp
  · have foreign := decodeFrame_read_foreignTrace r (kindOf_ctrl_read a) p
    rwa [addrOf_ctrl] at foreign

/-- Settles O11: the accepted sequences are frames written out, a table word among them with its zero register
address, and `0x50` lies outside the family. -/
theorem sampleWordsDecode : Obligations.SampleWordsDecode :=
  ⟨decodeOfEncodeIsTheInstruction .codecOutput 2#3 (.read 0x09#8 1),
    decodeOfEncodeIsTheInstruction .codecOutput 2#3 (.write 0x00#8 [0xFF#8]),
    decodeOfEncodeIsTheInstruction .codecOutput 6#3 (.read 0x10#8 0),
    decodeOfEncodeIsTheInstruction .codecOutput 0#3 (.write 0x41#8 [0x41#8, 0x40#8]), rfl, rfl, rfl⟩

/-! ### The inputs of the control byte -/

/-- R132: no two of the three operands of the formula share a bit. -/
theorem ctrl_operands_disjoint (a : HwAddr) (rw : BitVec 1) :
    (0b0100 <<< 4) &&& (a.toNat <<< 1) = 0 ∧ (0b0100 <<< 4) &&& rw.toNat = 0 ∧ (a.toNat <<< 1) &&& rw.toNat = 0 := by
  revert a rw; decide

/-- R132: the fields of the control byte give its inputs back. -/
theorem ctrl_injective {a b : HwAddr} {v w : BitVec 1} (h : ctrl a v = ctrl b w) : a = b ∧ v = w := by
  constructor
  · rw [← addrOf_ctrl a v, h, addrOf_ctrl]
  · rw [← ctrl_bit_zero a v, h, ctrl_bit_zero]

/-- Settles O3: a shift by 4, a shift by 1 and one bit overlap nowhere, and equal bytes have equal fields. -/
theorem controlByteRecoversInputs : Obligations.ControlByteRecoversInputs :=
  ⟨ctrl_operands_disjoint, fun _ _ _ _ => ctrl_injective⟩

end Sys2Proof.Machine
end

section
/-! The frame of an operation: what its walk leaves as it was. -/

namespace Sys2Proof.Machine

/-- An append is seen only where the appended elements stand. -/
theorem getElem?_append_outside {α : Type} (l f : List α) {j : Nat} (h : j < l.length ∨ l.length + f.length ≤ j) :
    (l ++ f)[j]? = l[j]? := by
  obtain h | h := h
  · exact List.getElem?_append_left h
  · rw [List.getElem?_eq_none (by simpa using h), List.getElem?_eq_none (by omega)]

/-- Everything an instruction can do when it completes (R176, R180). -/
theorem exec_next {i : Instr} {s s' : State} (h : exec i s = .next s') :
    (s.phase = .encode ∧ s' = appendFrame (encode s.cfg.hardwareAddress i) s) ∨
      (s.phase = .decode ∧ ∃ result, s' = appendResult result s) := by
  rw [exec_eq_operate] at h
  exact (operate_next h).imp id (.imp id fun ⟨_, _, hs⟩ => ⟨_, hs⟩)

/-- Settles O16: `appendFrame` appends to `OUT` and `WIN` the frame of the operation's length and its window, and
`appendResult` appends to `RES`; either writes no other field but `OFF` in the first case and `K` in both. -/
theorem operationChangesOnlyItsWalk : Obligations.OperationChangesOnlyItsWalk := by
  intro i s s' h
  have hlen : (encode s.cfg.hardwareAddress i).length = 2 + i.payloadLength := encode_length _ i
  obtain ⟨hp, rfl⟩ | ⟨hp, result, rfl⟩ := exec_next h
  · refine ⟨rfl, rfl, rfl, rfl, rfl, rfl, rfl, rfl, rfl, rfl, rfl, rfl, rfl,
      fun _ => ⟨rfl, ?off, ?out, ?win, fun j hj => ?bytes, fun j hj => ?windows⟩, fun hd => by simp [hp] at hd⟩
    case off => rw [appendFrame_off, hlen]
    case out => rw [appendFrame_out, List.length_append, hlen]
    case win => exact List.length_append
    case bytes => exact getElem?_append_outside _ _ (by rwa [hlen])
    case windows => exact List.getElem?_append_left hj
  · exact ⟨rfl, rfl, rfl, rfl, rfl, rfl, rfl, rfl, rfl, rfl, rfl, rfl, rfl, fun he => by simp [hp] at he,
      fun _ => ⟨rfl, rfl, rfl, List.length_append, fun j hj => List.getElem?_append_left hj⟩⟩

end Sys2Proof.Machine
end
